-- ==== Sys2Proof/Word.lean ====
section
/-! DEFINITION. The words of the machine: registers, vectors, bytes, and their plainest readings. -/

namespace Sys2Proof

/-- A general register, an address, a 64-bit word of memory (R61). -/
abbrev Word := BitVec 64
/-- A 32-bit word: an FP32 value, a thread id, a vector lane. -/
abbrev W32 := BitVec 32
/-- A byte of memory. -/
abbrev Byte := BitVec 8
/-- A vector register, a latch, a 64-byte block (R61). -/
abbrev Vec := BitVec 512

end Sys2Proof
end

