-- ==== Sys2Proof/Config.lean ====
section
/-! DEFINITION. What the spec leaves to the device or leaves open: constants without a body, so that no proof
can lean on a value of them (log entries 8 and 11). -/

namespace Sys2Proof.Config

/-- SHAKE256 with `n` bytes of output (R401, R402): named by the spec, not defined by it (log 8). -/
opaque shake256 (n : Nat) (msg : List Byte) : List Byte
/-- SLH-DSA-SHAKE-256s verification of a signature over a message under a public key (R401) (log 8). -/
opaque slhVerify (key msg sig : List Byte) : Bool
/-- The quote's SLH-DSA-SHAKE-256s signature made with the device identity key (R403) (log 8). -/
opaque slhSign (msg : List Byte) : List Byte
/-- The SHAKE256 digest of the public key fused at manufacture (R401) (log 8). -/
opaque fusedKeyDigest : List Byte
/-- The least security version fused at manufacture (R401) (log 8). -/
opaque fusedMinVersion : Nat
/-- The public half of the identity key, 64 bytes at IDKEY (R403, R408) (log 8). -/
opaque idKeyWord (i : Nat) : Word
/-- The L2 set of a 512-byte block: a fixed function the device chooses (R156) (log 12). -/
opaque l2Set (block : Nat) : Nat
/-- The L1 set of a 512-byte block: chosen by the device as the L2's is (R141) (log 12). -/
opaque l1Set (block : Nat) : Nat
/-- A byte the spec leaves undefined: the n-th one met (R50, R344) (log 11). -/
opaque freeByte (n : Nat) : Byte
/-- The choice a device makes where the spec does not promise one: the n-th one met (R331) (log 11). -/
opaque freeNat (n : Nat) : Nat

end Sys2Proof.Config
end

