-- ==== Sys2Proof/Syntax.lean ====
section
/-! DEFINITION. The instruction set as syntax: one constructor per row of spec/opcode_table.json. The first 216
are the encoded instructions (R39-R48); the last 78 are the device events of the table, which have no encoding and
arrive as turns of the agenda with their operands (log 1). -/

namespace Sys2Proof

/-- A g-register number, 0-31 (R41). -/
abbrev GReg := BitVec 5
/-- A vector-register number; 24-31 do not exist (R41, R61). -/
abbrev VReg := BitVec 5

/-- Element or access size (R40): 8, 16, 32, 64 bits. -/
inductive Size | b | h | w | d deriving DecidableEq, Repr
/-- Order field (R40). -/
inductive Order | plain | acq | rel | sc deriving DecidableEq, Repr
/-- Scope field (R40, R186). -/
inductive Scope | core | clu | blk | part | dev | sys deriving DecidableEq, Repr
/-- Scalar floating-point precision (R103). -/
inductive Prec | f32 | f64 deriving DecidableEq, Repr
/-- Rounding mode (R86). -/
inductive Rm | rne | rtz | rdn | rup | rmm deriving DecidableEq, Repr
/-- Vector float type (R40). -/
inductive VType | f32 | bf16 | f16 | f64 deriving DecidableEq, Repr
/-- FCVT's conversion kind (R105). -/
inductive CvtKind | ff | fi | if_ | fu deriving DecidableEq, Repr
/-- The file SETE and GETE address (R72). -/
inductive XFile | e | i deriving DecidableEq, Repr
/-- RDID's selector (R113). -/
inductive RdSel | id | place | part deriving DecidableEq, Repr
/-- VCMP's condition (R128). -/
inductive VCond | eq | ne | lt | ltu | feq | flt | fle | fun_ deriving DecidableEq, Repr
/-- VTEST's question (R129). -/
inductive VTestOp | any | all | none_ | count deriving DecidableEq, Repr
/-- VCVT's conversion code (R130). -/
inductive VCvtCode
  | f32bf16 | f32f16 | bf16f32lo | bf16f32hi | f16f32lo | f16f32hi | f32i32 | f32i32rtz | i32f32
  | f32f64lo | f32f64hi | f64f32 | f64i64rtz | i64f64
  deriving DecidableEq, Repr
/-- The packed formats of VPACK and VUNPK (R131, R132). -/
inductive PackCode | e4m3 | e5m2 | e3m2 | e2m3 | int8 | int4 | q4k0 | q4k1 | q4k2 | q4k3 deriving DecidableEq, Repr
/-- VRED's reduction (R135). -/
inductive VRedOp | fadd | fmax | fmin | addw | maxw | minw | addd | faddf64 | and | or | xor deriving DecidableEq, Repr
/-- XADD's addend (R138). -/
inductive XForm | f32 | f64 | vf32 | vf64 deriving DecidableEq, Repr
/-- An AMO's operation (R171). -/
inductive AmoOp | add | and | or | xor | min | max | minu | maxu | swap | fadd deriving DecidableEq, Repr
/-- The engine flags of a matrix or copy command (R208). -/
structure EFlags where
  acq : Bool
  rel : Bool
  scope : Scope
  dec : Bool
  deriving DecidableEq, Repr

/-- What a core's L1 asks of a home (R150, R151), or what happens to the block there: it comes with the carry check
`check`, on a hop of R322's SOURCE and UNIT (R355), or HBM reports an uncorrectable error in it (R353). -/
inductive CohKind
  | read | own | writeBack | drop | recall
  | verify (check : BitVec 32) (source unit : Nat)
  | uncorrectable
  deriving DecidableEq, Repr
/-- What a host snoop asks of a proxy home (R152, R352), with the line the host wrote, if it did. -/
inductive SnoopKind | share | take (wrote : Option Vec) deriving DecidableEq, Repr
/-- A host request to device memory (R349): a read of n bytes, with caching intent or not, or a write. -/
inductive HostReq | read (n : Nat) (cache : Bool) | write (bytes : List Byte) (poison : Bool) deriving DecidableEq, Repr
/-- A host AtomicOp on device memory (R348, R349). -/
inductive HostAtomic | fetchAdd | swap | cas | cas128 deriving DecidableEq, Repr
/-- A Reedway access that arrives at this package (R358). -/
inductive RemoteReq
  | read (n : Nat) | write (bytes : List Byte) (poison : Bool)
  | amo (op : AmoOp) (dbl : Bool) (y : Word) | cas (dbl : Bool) (expect new : Word)
  deriving DecidableEq, Repr
/-- The host's answer to an ATS Translation Request (R330): none, a translation of `pages` 64 KiB pages, or one
of `bytes` bytes, under 64 KiB. -/
inductive AtsAnswer | none_ | grant (ppage pages : Nat) (r w : Bool) | small (bytes : Nat) deriving DecidableEq, Repr
/-- How a host port trains (R351): plain PCIe, or CXL with 68-byte flits, or with the 256-byte flits that host caching of device memory
requires. -/
inductive CxlMode | pcie | flit68 | flit256 deriving DecidableEq, Repr
/-- What comes back for a device request to the host or to a remote package (R353, R358). -/
inductive LinkResult | data (bytes : List Byte) | poison | ur | ca | ack | wbRefused deriving DecidableEq, Repr
/-- The firmware image the boot ROM reads (R401): key, signed body, signature, security version, configuration. -/
structure BootImage where
  key : List Byte
  body : List Byte
  sig : List Byte
  version : Nat
  conf : List Byte
  deriving DecidableEq, Repr

/-- One constructor per row of the opcode table. -/
inductive Instr
  | add (d : GReg) (a : GReg) (b : GReg)
  | sub (d : GReg) (a : GReg) (b : GReg)
  | and (d : GReg) (a : GReg) (b : GReg)
  | or (d : GReg) (a : GReg) (b : GReg)
  | xor (d : GReg) (a : GReg) (b : GReg)
  | shl (d : GReg) (a : GReg) (b : GReg)
  | shr (d : GReg) (a : GReg) (b : GReg)
  | sra (d : GReg) (a : GReg) (b : GReg)
  | rot (d : GReg) (a : GReg) (b : GReg)
  | min (d : GReg) (a : GReg) (b : GReg)
  | max (d : GReg) (a : GReg) (b : GReg)
  | minu (d : GReg) (a : GReg) (b : GReg)
  | maxu (d : GReg) (a : GReg) (b : GReg)
  | sel (d : GReg) (a : GReg) (b : GReg)
  | slt (d : GReg) (a : GReg) (b : GReg)
  | sltu (d : GReg) (a : GReg) (b : GReg)
  | mul (d : GReg) (a : GReg) (b : GReg)
  | mulh (d : GReg) (a : GReg) (b : GReg)
  | mulhu (d : GReg) (a : GReg) (b : GReg)
  | div (d : GReg) (a : GReg) (b : GReg)
  | divu (d : GReg) (a : GReg) (b : GReg)
  | rem (d : GReg) (a : GReg) (b : GReg)
  | remu (d : GReg) (a : GReg) (b : GReg)
  | clz (d : GReg) (a : GReg)
  | ctz (d : GReg) (a : GReg)
  | popc (d : GReg) (a : GReg)
  | sext (s : Size) (d : GReg) (a : GReg)
  | zext (s : Size) (d : GReg) (a : GReg)
  | seq (d : GReg) (a : GReg) (b : GReg)
  | sne (d : GReg) (a : GReg) (b : GReg)
  | brev (d : GReg) (a : GReg)
  | addi (d : GReg) (a : GReg) (imm : BitVec 15)
  | andi (d : GReg) (a : GReg) (imm : BitVec 15)
  | ori (d : GReg) (a : GReg) (imm : BitVec 15)
  | xori (d : GReg) (a : GReg) (imm : BitVec 15)
  | shli (d : GReg) (a : GReg) (n : BitVec 6)
  | shri (d : GReg) (a : GReg) (n : BitVec 6)
  | srai (d : GReg) (a : GReg) (n : BitVec 6)
  | slti (d : GReg) (a : GReg) (imm : BitVec 15)
  | movi (d : GReg) (imm : BitVec 15)
  | lis (d : GReg) (imm : BitVec 15)
  | fadd (p : Prec) (rm : Rm) (d : GReg) (a : GReg) (b : GReg)
  | fsub (p : Prec) (rm : Rm) (d : GReg) (a : GReg) (b : GReg)
  | fmul (p : Prec) (rm : Rm) (d : GReg) (a : GReg) (b : GReg)
  | fdiv (p : Prec) (rm : Rm) (d : GReg) (a : GReg) (b : GReg)
  | fsqrt (p : Prec) (rm : Rm) (d : GReg) (a : GReg)
  | fmin (p : Prec) (d : GReg) (a : GReg) (b : GReg)
  | fmax (p : Prec) (d : GReg) (a : GReg) (b : GReg)
  | ffma (p : Prec) (rm : Rm) (d : GReg) (a : GReg) (b : GReg)
  | fcvt (k : CvtKind) (p : Prec) (rm : Rm) (d : GReg) (a : GReg)
  | fclass (p : Prec) (d : GReg) (a : GReg)
  | feq (p : Prec) (d : GReg) (a : GReg) (b : GReg)
  | flt (p : Prec) (d : GReg) (a : GReg) (b : GReg)
  | fle (p : Prec) (d : GReg) (a : GReg) (b : GReg)
  | beq (a : GReg) (b : GReg) (off : BitVec 15)
  | bne (a : GReg) (b : GReg) (off : BitVec 15)
  | blt (a : GReg) (b : GReg) (off : BitVec 15)
  | bge (a : GReg) (b : GReg) (off : BitVec 15)
  | bltu (a : GReg) (b : GReg) (off : BitVec 15)
  | bgeu (a : GReg) (b : GReg) (off : BitVec 15)
  | j (off : BitVec 25)
  | jal (off : BitVec 25)
  | jr (a : GReg)
  | jalr (d : GReg) (a : GReg)
  | sete (f : XFile) (n : BitVec 5) (a : GReg)
  | gete (f : XFile) (d : GReg) (n : BitVec 5)
  | rdts (d : GReg)
  | rdid (ix : RdSel) (d : GReg)
  | poolw (n : BitVec 15)
  | yieldG
  | ld (s : Size) (o : Order) (c : Scope) (d : GReg) (a : GReg) (off : BitVec 8)
  | lds (s : Size) (o : Order) (c : Scope) (d : GReg) (a : GReg) (off : BitVec 8)
  | st (s : Size) (o : Order) (c : Scope) (d : GReg) (a : GReg) (off : BitVec 8)
  | ldfe (o : Order) (c : Scope) (d : GReg) (a : GReg) (off : BitVec 8)
  | ldf (o : Order) (c : Scope) (d : GReg) (a : GReg) (off : BitVec 8)
  | stef (o : Order) (c : Scope) (d : GReg) (a : GReg) (off : BitVec 8)
  | stf (o : Order) (c : Scope) (d : GReg) (a : GReg) (off : BitVec 8)
  | fence (k : Order) (c : Scope)
  | feget (d : GReg)
  | feset (a : GReg)
  | pref (l2 : Bool) (own : Bool) (a : GReg)
  | flush (out : Bool) (inv : Bool) (a : GReg)
  | gjoin (d : GReg) (a : GReg)
  | gleave (d : GReg) (a : GReg)
  | gload (d : GReg) (a : GReg) (b : GReg)
  | amoAdd (dbl : Bool) (o : Order) (c : Scope) (d : GReg) (a : GReg) (b : GReg)
  | amoAnd (dbl : Bool) (o : Order) (c : Scope) (d : GReg) (a : GReg) (b : GReg)
  | amoOr (dbl : Bool) (o : Order) (c : Scope) (d : GReg) (a : GReg) (b : GReg)
  | amoXor (dbl : Bool) (o : Order) (c : Scope) (d : GReg) (a : GReg) (b : GReg)
  | amoMin (dbl : Bool) (o : Order) (c : Scope) (d : GReg) (a : GReg) (b : GReg)
  | amoMax (dbl : Bool) (o : Order) (c : Scope) (d : GReg) (a : GReg) (b : GReg)
  | amoMinu (dbl : Bool) (o : Order) (c : Scope) (d : GReg) (a : GReg) (b : GReg)
  | amoMaxu (dbl : Bool) (o : Order) (c : Scope) (d : GReg) (a : GReg) (b : GReg)
  | amoSwap (dbl : Bool) (o : Order) (c : Scope) (d : GReg) (a : GReg) (b : GReg)
  | amoFadd (dbl : Bool) (o : Order) (c : Scope) (d : GReg) (a : GReg) (b : GReg)
  | cas (dbl : Bool) (o : Order) (c : Scope) (d : GReg) (a : GReg) (b : GReg)
  | vadd (t : VType) (d : VReg) (a : VReg) (b : VReg)
  | vsub (t : VType) (d : VReg) (a : VReg) (b : VReg)
  | vmul (t : VType) (d : VReg) (a : VReg) (b : VReg)
  | vdiv (t : VType) (d : VReg) (a : VReg) (b : VReg)
  | vmin (t : VType) (d : VReg) (a : VReg) (b : VReg)
  | vmax (t : VType) (d : VReg) (a : VReg) (b : VReg)
  | vabs (t : VType) (d : VReg) (a : VReg)
  | vneg (t : VType) (d : VReg) (a : VReg)
  | vsqrt (t : VType) (d : VReg) (a : VReg)
  | vrcp (t : VType) (d : VReg) (a : VReg)
  | vrsq (t : VType) (d : VReg) (a : VReg)
  | vexp2 (t : VType) (d : VReg) (a : VReg)
  | vlog2 (t : VType) (d : VReg) (a : VReg)
  | vaddI (s : Size) (d : VReg) (a : VReg) (b : VReg)
  | vsubI (s : Size) (d : VReg) (a : VReg) (b : VReg)
  | vmulI (s : Size) (d : VReg) (a : VReg) (b : VReg)
  | vminI (s : Size) (d : VReg) (a : VReg) (b : VReg)
  | vmaxI (s : Size) (d : VReg) (a : VReg) (b : VReg)
  | vminuI (s : Size) (d : VReg) (a : VReg) (b : VReg)
  | vmaxuI (s : Size) (d : VReg) (a : VReg) (b : VReg)
  | vshlI (s : Size) (d : VReg) (a : VReg) (b : VReg)
  | vshrI (s : Size) (d : VReg) (a : VReg) (b : VReg)
  | vsraI (s : Size) (d : VReg) (a : VReg) (b : VReg)
  | vandI (s : Size) (d : VReg) (a : VReg) (b : VReg)
  | vorI (s : Size) (d : VReg) (a : VReg) (b : VReg)
  | vxorI (s : Size) (d : VReg) (a : VReg) (b : VReg)
  | vfmaBcast (h : BitVec 3) (t : VType) (lane : BitVec 4) (d : VReg) (a : VReg) (b : VReg)
  | vfma (h : BitVec 3) (t : VType) (d : VReg) (a : VReg) (b : VReg)
  | vfms (h : BitVec 3) (t : VType) (d : VReg) (a : VReg) (b : VReg)
  | vfnma (h : BitVec 3) (t : VType) (d : VReg) (a : VReg) (b : VReg)
  | vcmp (c : VCond) (m : GReg) (a : VReg) (b : VReg)
  | vsel (m : GReg) (d : VReg) (a : VReg) (b : VReg)
  | vtest (q : VTestOp) (m : GReg) (d : GReg) (a : VReg) (b : VReg)
  | vcvt (c : VCvtCode) (d : VReg) (a : VReg) (b : VReg)
  | vpack (c : PackCode) (d : VReg) (a : VReg) (b : VReg)
  | vunpk (c : PackCode) (hi : Bool) (d : VReg) (a : VReg)
  | vscale (t : VType) (d : VReg) (a : VReg) (b : VReg)
  | vperm (dbl : Bool) (d : VReg) (a : VReg) (b : VReg)
  | vbcast (s : Size) (d : VReg) (a : GReg)
  | vred (o : VRedOp) (d : GReg) (a : VReg)
  | vmovg (ix : BitVec 5) (d : GReg) (a : VReg)
  | vmovv (d : VReg) (a : VReg)
  | vlane (ix : BitVec 5) (d : VReg) (a : GReg)
  | vld (o : Order) (c : Scope) (d : VReg) (a : GReg) (off : BitVec 8)
  | vst (o : Order) (c : Scope) (d : VReg) (a : GReg) (off : BitVec 8)
  | vlds (s : Size) (d : VReg) (a : GReg) (b : GReg)
  | vsts (s : Size) (d : VReg) (a : GReg) (b : GReg)
  | vgath (dbl : Bool) (d : VReg) (a : GReg) (b : VReg)
  | vscat (dbl : Bool) (d : VReg) (a : GReg) (b : VReg)
  | vstm (n1 : BitVec 5) (d : VReg) (a : GReg)
  | vldm (n1 : BitVec 5) (d : VReg) (a : GReg)
  | xclr (rel : Bool) (a : GReg) (b : GReg)
  | xadd (rel : Bool) (f : XForm) (a : GReg) (b : BitVec 5)
  | xmadd (rel : Bool) (vec : Bool) (a : GReg) (b : BitVec 5) (c : BitVec 5)
  | xrnd (acq : Bool) (p : Prec) (rm : Rm) (d : GReg) (a : GReg)
  | xmerge (rel : Bool) (a : GReg) (b : GReg)
  | mma (x : EFlags) (d : GReg) (t : BitVec 3)
  | mmag (x : EFlags) (d : GReg) (t : BitVec 3)
  | mzero (x : EFlags) (d : GReg) (t : BitVec 3)
  | mload (x : EFlags) (d : GReg) (t : BitVec 3)
  | mdrain (x : EFlags) (d : GReg) (t : BitVec 3)
  | mdres (d : GReg) (t : BitVec 3)
  | accrd (d : VReg) (t : BitVec 3) (a : GReg)
  | mstat (d : GReg) (t : BitVec 3)
  | dpload (x : EFlags) (d : GReg) (a : GReg) (b : GReg)
  | cpy (x : EFlags) (d : GReg)
  | cpys (x : EFlags) (d : GReg)
  | cpyg (x : EFlags) (d : GReg)
  | fill (x : EFlags) (d : GReg)
  | gate (d : GReg) (a : GReg) (b : GReg)
  | watch (d : GReg) (a : GReg)
  | unwatch (d : GReg) (a : GReg)
  | unwatchAll (d : GReg)
  | spawn (d : GReg) (a : GReg)
  | migrate (a : GReg)
  | wake (d : GReg) (a : GReg)
  | sleepT (a : GReg)
  | send (d : GReg) (a : GReg)
  | sendn (d : GReg) (a : GReg)
  | recv (d : GReg) (a : GReg)
  | recvn (d : GReg)
  | tstop (d : GReg) (a : GReg)
  | tstart (d : GReg) (a : GReg)
  | tread (d : GReg) (a : GReg) (b : GReg)
  | treadTab (d : GReg) (a : GReg) (b : GReg)
  | treadLog (d : GReg) (a : GReg) (b : GReg)
  | twrite (mask : BitVec 5) (d : GReg) (a : GReg) (b : GReg)
  | twriteTab (d : GReg) (a : GReg) (b : GReg)
  | treap (d : GReg) (a : GReg)
  | tstat (d : GReg) (a : GReg)
  | nest (d : GReg) (a : GReg)
  | iter (d : GReg) (a : GReg)
  | iterStep
  | svc (d : GReg) (a : GReg) (b : GReg)
  | codemap (d : GReg) (a : GReg)
  | codemapRel (d : GReg) (a : GReg)
  | xlinv (d : GReg) (a : GReg) (b : GReg)
  | xlinvVf (d : GReg)
  | xlinvAll (d : GReg)
  | preempt (d : GReg) (a : GReg) (b : GReg)
  | preemptWd (d : GReg)
  | pcrd (d : GReg) (a : GReg)
  | pcrdCtl (d : GReg) (a : GReg)
  | pcset (a : GReg) (b : GReg)
  | pcsetVal (a : GReg) (b : GReg)
  | nop
  | mov (d : GReg) (s : GReg)
  | addiS (d : GReg) (imm : BitVec 6)
  | bz (d : GReg) (off : BitVec 6)
  | bnz (d : GReg) (off : BitVec 6)
  | jS (off : BitVec 11)
  | ret
  | sleep
  | yield
  | once
  | pool (n : BitVec 6)
  | lddS (d : GReg) (b : GReg)
  | stdS (d : GReg) (b : GReg)
  | shliS (d : GReg) (n : BitVec 6)
  | endThread
  | bind (core : Nat) (ctx : Nat)
  | priorityPromotion (tid : W32)
  | sleepDeadline (tid : W32)
  | watchWake (tid : W32) (n : Nat)
  | coarseWake (bh : Nat)
  | feParkRequest (core : Nat) (ctx : Nat)
  | wordWake (word : Nat)
  | longLatencyResult (core : Nat) (ctx : Nat) (n : Nat)
  | lateFault (core : Nat) (ctx : Nat) (n : Nat)
  | oncePost (core : Nat) (ctx : Nat)
  | suspensionComplete (core : Nat) (ctx : Nat)
  | stopComplete (core : Nat) (ctx : Nat)
  | slotTakeRecord (p : Nat) (slot : Nat)
  | launchWakeMessage (p : Nat) (cl : Nat)
  | heldSpawn (core : Nat)
  | launchCompletionDecrement (p : Nat) (id : Nat) (fc : Nat)
  | gangSwitchDeadline (p : Nat)
  | switchRestore (p : Nat)
  | grainChange (bh : Nat) (slice : Nat)
  | coherenceRequest (core : Nat) (addr : Nat) (k : CohKind)
  | hostSnoop (p : Nat) (line : Nat) (k : SnoopKind)
  | birsp (bh : Nat) (line : Nat) (inv : Bool) (dirty : Option (Vec × Bool))
  | hostMemoryRequest (port : Nat) (pa : Nat) (r : HostReq)
  | hostAtomicop (port : Nat) (pa : Nat) (op : HostAtomic) (dbl : Bool) (x : Word) (y : Word)
  | crossBulkheadAccess (imp : Nat) (exp : Nat) (dpa : Nat) (r : HostReq)
  | clusterPowerGate (cl : Nat)
  | clusterUngate (cl : Nat)
  | matrixCommandStart (cl : Nat) (n : Nat)
  | matrixCommandComplete (cl : Nat)
  | drainRow (cl : Nat)
  | dploadImageRead (cl : Nat) (n : Nat)
  | outboundForward (u : Nat)
  | streamerArrival (cl : Nat) (n : Nat)
  | streamerPiece (cl : Nat)
  | gateEnterQueue (u : Nat) (n : Nat)
  | groupTimerExpiry (p : Nat) (g : Nat)
  | groupFillData (p : Nat) (g : Nat)
  | messageDelivery (core : Nat) (ctx : Nat)
  | sendAnswer (core : Nat) (ctx : Nat)
  | sendRetry (core : Nat) (n : Nat)
  | doorbellWrite (port : Nat) (vf : Nat) (q : Nat) (x : Word)
  | slotMap (p : Nat) (slot : Nat)
  | slotUnmap (p : Nat) (slot : Nat)
  | codemapScan (p : Nat)
  | partitionStart (p : Nat)
  | partitionReset (p : Nat)
  | vfReset (p : Nat)
  | functionLevelReset (vf : Nat)
  | bulkheadReset (b : Nat) (pass : Bool)
  | bulkheadFault (b : Nat) (pass : Bool)
  | uncorrectableError (b : Nat)
  | atsTranslationCompletion (bh : Nat) (n : Nat) (ans : AtsAnswer)
  | priResponse (bh : Nat) (n : Nat) (code : Nat)
  | atsInvalidateRequest (p : Nat) (pasid : Nat) (vpage : Nat) (pages : Nat)
  | invalidateCompletion (p : Nat)
  | linkStateChange (port : Nat) (up : Bool) (cxl : CxlMode)
  | hostRequestTimeout (p : Nat) (n : Nat)
  | remoteInboundAccess (port : Nat) (pkg : Nat) (part : Nat) (p : Nat) (dpa : Nat) (r : RemoteReq)
  | remoteTimeout (n : Nat)
  | laneStop (port : Nat) (lane : Nat)
  | laneGo (port : Nat) (lane : Nat)
  | vfTableWrite (port : Nat) (p : Nat) (vf : Nat) (x : Word)
  | windowTableWrite (p : Nat) (w : Nat) (hi : Bool) (x : Word)
  | replayInject (p : Nat)
  | moduleReset (img : BootImage)
  | firmwareRunning
  | quoteRequest
  | pwrcapWrite (x : Word)
  | powerSample (now : Nat) (peak : Nat) (tdie : Nat) (tin : Nat)
  | powerThrottle (on : Bool)
  | thermalThrottle (on : Bool)
  | overtempReset (die : Nat) (pass : Bool)
  | registerWrite (off : Nat) (x : Word)
  | hostLinkCompletion (p : Nat) (n : Nat) (r : LinkResult)
  | remoteResponse (n : Nat) (r : LinkResult)
  | reedLinkStateChange (port : Nat) (up : Bool)
  | flitReplay (port : Nat)
  | scWindowClose (core : Nat) (ctx : Nat)
  deriving DecidableEq, Repr

/-- The rows without an encoding: the device events. -/
def Instr.isEvent : Instr → Bool
  | .bind _ _ => true
  | .priorityPromotion _ => true
  | .sleepDeadline _ => true
  | .watchWake _ _ => true
  | .coarseWake _ => true
  | .feParkRequest _ _ => true
  | .wordWake _ => true
  | .longLatencyResult _ _ _ => true
  | .lateFault _ _ _ => true
  | .oncePost _ _ => true
  | .suspensionComplete _ _ => true
  | .stopComplete _ _ => true
  | .slotTakeRecord _ _ => true
  | .launchWakeMessage _ _ => true
  | .heldSpawn _ => true
  | .launchCompletionDecrement _ _ _ => true
  | .gangSwitchDeadline _ => true
  | .switchRestore _ => true
  | .grainChange _ _ => true
  | .coherenceRequest _ _ _ => true
  | .hostSnoop _ _ _ => true
  | .birsp _ _ _ _ => true
  | .hostMemoryRequest _ _ _ => true
  | .hostAtomicop _ _ _ _ _ _ => true
  | .crossBulkheadAccess _ _ _ _ => true
  | .clusterPowerGate _ => true
  | .clusterUngate _ => true
  | .matrixCommandStart _ _ => true
  | .matrixCommandComplete _ => true
  | .drainRow _ => true
  | .dploadImageRead _ _ => true
  | .outboundForward _ => true
  | .streamerArrival _ _ => true
  | .streamerPiece _ => true
  | .gateEnterQueue _ _ => true
  | .groupTimerExpiry _ _ => true
  | .groupFillData _ _ => true
  | .messageDelivery _ _ => true
  | .sendAnswer _ _ => true
  | .sendRetry _ _ => true
  | .doorbellWrite _ _ _ _ => true
  | .slotMap _ _ => true
  | .slotUnmap _ _ => true
  | .codemapScan _ => true
  | .partitionStart _ => true
  | .partitionReset _ => true
  | .vfReset _ => true
  | .functionLevelReset _ => true
  | .bulkheadReset _ _ => true
  | .bulkheadFault _ _ => true
  | .uncorrectableError _ => true
  | .atsTranslationCompletion _ _ _ => true
  | .priResponse _ _ _ => true
  | .atsInvalidateRequest _ _ _ _ => true
  | .invalidateCompletion _ => true
  | .linkStateChange _ _ _ => true
  | .hostRequestTimeout _ _ => true
  | .remoteInboundAccess _ _ _ _ _ _ => true
  | .remoteTimeout _ => true
  | .laneStop _ _ => true
  | .laneGo _ _ => true
  | .vfTableWrite _ _ _ _ => true
  | .windowTableWrite _ _ _ _ => true
  | .replayInject _ => true
  | .moduleReset _ => true
  | .firmwareRunning => true
  | .quoteRequest => true
  | .pwrcapWrite _ => true
  | .powerSample _ _ _ _ => true
  | .powerThrottle _ => true
  | .thermalThrottle _ => true
  | .overtempReset _ _ => true
  | .registerWrite _ _ => true
  | .hostLinkCompletion _ _ _ => true
  | .remoteResponse _ _ => true
  | .reedLinkStateChange _ _ => true
  | .flitReplay _ => true
  | .scWindowClose _ _ => true
  | _ => false

end Sys2Proof
end

