-- ==== Sys2Proof/WellFormed.lean ====
section
/-! DEFINITION. Which instruction terms are instructions of the machine: the modifier values, register numbers and
pairs of fields that R40-R44 and the defining chapters allow; for a device event, that its agents exist (R2). -/

namespace Sys2Proof

/-- v24-v31 do not exist (R41). -/
def vOk (v : VReg) : Bool := decide (v.toNat < 24)
/-- e0-e7, i0-i2 (R41, R72). -/
def xOk (f : XFile) (n : BitVec 5) : Bool := match f with | .e => decide (n.toNat < 8) | .i => decide (n.toNat < 3)
/-- A plain order requires scope 0 (R42). -/
def ordScope (o : Order) (c : Scope) : Bool := o ≠ .plain || c = .core
/-- The conversions that read vb (R130). -/
def VCvtCode.twoSource (c : VCvtCode) : Bool := c = .f32bf16 || c = .f32f16 || c = .f64f32
/-- The forms of XADD that read a v register (R138). -/
def XForm.isVec (f : XForm) : Bool := f = .vf32 || f = .vf64
/-- Bulkheads and partitions are 0-47 (R2, R323). -/
def bhOk (b : Nat) : Bool := decide (b < 48)
/-- A core key is 32 × bulkhead + 4 × cluster + core, or 32 × bulkhead + 24 for the deep core (R2). -/
def coreOk (k : Nat) : Bool := decide (k / 32 < 48) && decide (k % 32 < 25)
/-- Contexts 0-15 of a barrel core, 0-3 of a deep core (R1, R2). -/
def ctxOk (k c : Nat) : Bool := decide (c < (if k % 32 = 24 then 4 else 16))
/-- A cluster key is 8 × bulkhead + cluster (R2). -/
def clOk (c : Nat) : Bool := decide (c / 8 < 48) && decide (c % 8 < 6)
/-- A copy-issuing unit: a cluster, or 8 × bulkhead + 6 for a deep core (R231). -/
def unitOk (u : Nat) : Bool := decide (u / 8 < 48) && decide (u % 8 < 7)

/-- The well-formed instructions. -/
def Instr.wf : Instr → Bool
  | .add _ _ _ => true
  | .sub _ _ _ => true
  | .and _ _ _ => true
  | .or _ _ _ => true
  | .xor _ _ _ => true
  | .shl _ _ _ => true
  | .shr _ _ _ => true
  | .sra _ _ _ => true
  | .rot _ _ _ => true
  | .min _ _ _ => true
  | .max _ _ _ => true
  | .minu _ _ _ => true
  | .maxu _ _ _ => true
  | .sel _ _ _ => true
  | .slt _ _ _ => true
  | .sltu _ _ _ => true
  | .mul _ _ _ => true
  | .mulh _ _ _ => true
  | .mulhu _ _ _ => true
  | .div _ _ _ => true
  | .divu _ _ _ => true
  | .rem _ _ _ => true
  | .remu _ _ _ => true
  | .clz _ _ => true
  | .ctz _ _ => true
  | .popc _ _ => true
  | .sext s _ _ => decide (s ≠ .d)
  | .zext s _ _ => decide (s ≠ .d)
  | .seq _ _ _ => true
  | .sne _ _ _ => true
  | .brev _ _ => true
  | .addi _ _ _ => true
  | .andi _ _ _ => true
  | .ori _ _ _ => true
  | .xori _ _ _ => true
  | .shli _ _ _ => true
  | .shri _ _ _ => true
  | .srai _ _ _ => true
  | .slti _ _ _ => true
  | .movi _ _ => true
  | .lis _ _ => true
  | .fadd _ _ _ _ _ => true
  | .fsub _ _ _ _ _ => true
  | .fmul _ _ _ _ _ => true
  | .fdiv _ _ _ _ _ => true
  | .fsqrt _ _ _ _ => true
  | .fmin _ _ _ _ => true
  | .fmax _ _ _ _ => true
  | .ffma _ _ _ _ _ => true
  | .fcvt _ _ _ _ _ => true
  | .fclass _ _ _ => true
  | .feq _ _ _ _ => true
  | .flt _ _ _ _ => true
  | .fle _ _ _ _ => true
  | .beq _ _ _ => true
  | .bne _ _ _ => true
  | .blt _ _ _ => true
  | .bge _ _ _ => true
  | .bltu _ _ _ => true
  | .bgeu _ _ _ => true
  | .j _ => true
  | .jal _ => true
  | .jr _ => true
  | .jalr _ _ => true
  | .sete f n _ => xOk f n
  | .gete f _ n => xOk f n
  | .rdts _ => true
  | .rdid _ _ => true
  | .poolw _ => true
  | .yieldG => true
  | .ld _ o c _ _ _ => ordScope o c && decide (o ≠ .rel)
  | .lds s o c _ _ _ => ordScope o c && decide (o ≠ .rel) && decide (s ≠ .d)
  | .st _ o c _ _ _ => ordScope o c && decide (o ≠ .acq)
  | .ldfe o c _ _ _ => ordScope o c && decide (o ≠ .rel)
  | .ldf o c _ _ _ => ordScope o c && decide (o ≠ .rel)
  | .stef o c _ _ _ => ordScope o c && decide (o ≠ .acq)
  | .stf o c _ _ _ => ordScope o c && decide (o ≠ .acq)
  | .fence k _ => decide (k ≠ .plain)
  | .feget _ => true
  | .feset _ => true
  | .pref _ _ _ => true
  | .flush _ _ _ => true
  | .gjoin _ _ => true
  | .gleave _ _ => true
  | .gload _ _ _ => true
  | .amoAdd _ o c _ _ _ => ordScope o c
  | .amoAnd _ o c _ _ _ => ordScope o c
  | .amoOr _ o c _ _ _ => ordScope o c
  | .amoXor _ o c _ _ _ => ordScope o c
  | .amoMin _ o c _ _ _ => ordScope o c
  | .amoMax _ o c _ _ _ => ordScope o c
  | .amoMinu _ o c _ _ _ => ordScope o c
  | .amoMaxu _ o c _ _ _ => ordScope o c
  | .amoSwap _ o c _ _ _ => ordScope o c
  | .amoFadd _ o c _ _ _ => ordScope o c
  | .cas _ o c _ _ _ => ordScope o c
  | .vadd _ d a b => vOk d && vOk a && vOk b
  | .vsub _ d a b => vOk d && vOk a && vOk b
  | .vmul _ d a b => vOk d && vOk a && vOk b
  | .vdiv _ d a b => vOk d && vOk a && vOk b
  | .vmin _ d a b => vOk d && vOk a && vOk b
  | .vmax _ d a b => vOk d && vOk a && vOk b
  | .vabs _ d a => vOk d && vOk a
  | .vneg _ d a => vOk d && vOk a
  | .vsqrt _ d a => vOk d && vOk a
  | .vrcp _ d a => vOk d && vOk a
  | .vrsq _ d a => vOk d && vOk a
  | .vexp2 _ d a => vOk d && vOk a
  | .vlog2 _ d a => vOk d && vOk a
  | .vaddI _ d a b => vOk d && vOk a && vOk b
  | .vsubI _ d a b => vOk d && vOk a && vOk b
  | .vmulI _ d a b => vOk d && vOk a && vOk b
  | .vminI _ d a b => vOk d && vOk a && vOk b
  | .vmaxI _ d a b => vOk d && vOk a && vOk b
  | .vminuI _ d a b => vOk d && vOk a && vOk b
  | .vmaxuI _ d a b => vOk d && vOk a && vOk b
  | .vshlI _ d a b => vOk d && vOk a && vOk b
  | .vshrI _ d a b => vOk d && vOk a && vOk b
  | .vsraI _ d a b => vOk d && vOk a && vOk b
  | .vandI _ d a b => vOk d && vOk a && vOk b
  | .vorI _ d a b => vOk d && vOk a && vOk b
  | .vxorI _ d a b => vOk d && vOk a && vOk b
  | .vfmaBcast _ t lane d a b => vOk d && vOk a && vOk b && (t ≠ .f64 || lane.toNat < 8)
  | .vfma _ _ d a b => vOk d && vOk a && vOk b
  | .vfms _ _ d a b => vOk d && vOk a && vOk b
  | .vfnma _ _ d a b => vOk d && vOk a && vOk b
  | .vcmp _ _ a b => vOk a && vOk b
  | .vsel _ d a b => vOk d && vOk a && vOk b
  | .vtest _ _ _ a b => vOk a && vOk b
  | .vcvt c d a b => vOk d && vOk a && vOk b && (c.twoSource || b = 0)
  | .vpack _ d a b => vOk d && vOk a && vOk b
  | .vunpk _ _ d a => vOk d && vOk a
  | .vscale t d a b => vOk d && vOk a && vOk b && (t = .f32 || t = .f64)
  | .vperm _ d a b => vOk d && vOk a && vOk b
  | .vbcast _ d _ => vOk d
  | .vred _ _ a => vOk a
  | .vmovg ix _ a => vOk a && decide (ix.toNat < 24)
  | .vmovv d a => vOk d && vOk a
  | .vlane ix d _ => vOk d && decide (ix.toNat < 25)
  | .vld o c d _ _ => vOk d && ordScope o c && decide (o ≠ .rel)
  | .vst o c d _ _ => vOk d && ordScope o c && decide (o ≠ .acq)
  | .vlds _ d _ _ => vOk d
  | .vsts _ d _ _ => vOk d
  | .vgath _ d _ b => vOk d && vOk b
  | .vscat _ d _ b => vOk d && vOk b
  | .vstm n1 d _ => vOk d && decide (d.toNat + n1.toNat + 1 ≤ 24)
  | .vldm n1 d _ => vOk d && decide (d.toNat + n1.toNat + 1 ≤ 24)
  | .xclr _ _ _ => true
  | .xadd _ f _ b => (!f.isVec || vOk b)
  | .xmadd _ vec _ b c => (!vec || (vOk b && vOk c))
  | .xrnd _ _ _ _ _ => true
  | .xmerge _ _ _ => true
  | .mma _ _ _ => true
  | .mmag _ _ _ => true
  | .mzero _ _ _ => true
  | .mload _ _ _ => true
  | .mdrain _ _ _ => true
  | .mdres _ _ => true
  | .accrd d _ _ => vOk d
  | .mstat _ _ => true
  | .dpload _ _ _ _ => true
  | .cpy _ _ => true
  | .cpys _ _ => true
  | .cpyg _ _ => true
  | .fill _ _ => true
  | .gate _ _ _ => true
  | .watch _ _ => true
  | .unwatch _ _ => true
  | .unwatchAll _ => true
  | .spawn _ _ => true
  | .migrate _ => true
  | .wake _ _ => true
  | .sleepT _ => true
  | .send _ _ => true
  | .sendn _ _ => true
  | .recv _ _ => true
  | .recvn _ => true
  | .tstop _ _ => true
  | .tstart _ _ => true
  | .tread _ _ _ => true
  | .treadTab _ _ _ => true
  | .treadLog _ _ _ => true
  | .twrite mask _ _ _ => decide (mask ≠ 0)
  | .twriteTab _ _ _ => true
  | .treap _ _ => true
  | .tstat _ _ => true
  | .nest _ _ => true
  | .iter _ _ => true
  | .iterStep => true
  | .svc _ _ _ => true
  | .codemap _ _ => true
  | .codemapRel _ _ => true
  | .xlinv _ _ _ => true
  | .xlinvVf _ => true
  | .xlinvAll _ => true
  | .preempt _ _ _ => true
  | .preemptWd _ => true
  | .pcrd _ _ => true
  | .pcrdCtl _ _ => true
  | .pcset _ _ => true
  | .pcsetVal _ _ => true
  | .nop => true
  | .mov _ _ => true
  | .addiS _ _ => true
  | .bz _ _ => true
  | .bnz _ _ => true
  | .jS _ => true
  | .ret => true
  | .sleep => true
  | .yield => true
  | .once => true
  | .pool _ => true
  | .lddS _ _ => true
  | .stdS _ _ => true
  | .shliS _ _ => true
  | .endThread => true
  | .bind core ctx => coreOk core && ctxOk core ctx
  | .priorityPromotion _ => true
  | .sleepDeadline _ => true
  | .watchWake _ n => decide (n < 5)
  | .coarseWake bh => bhOk bh
  | .feParkRequest core ctx => coreOk core && ctxOk core ctx
  | .wordWake _ => true
  | .longLatencyResult core ctx _ => coreOk core && ctxOk core ctx
  | .lateFault core ctx _ => coreOk core && ctxOk core ctx
  | .oncePost core ctx => coreOk core && ctxOk core ctx
  | .suspensionComplete core ctx => coreOk core && ctxOk core ctx
  | .stopComplete core ctx => coreOk core && ctxOk core ctx
  | .slotTakeRecord p slot => bhOk p && decide (slot < 64)
  | .launchWakeMessage p cl => bhOk p && decide (cl < 288)
  | .heldSpawn core => coreOk core
  | .launchCompletionDecrement p _ _ => bhOk p
  | .gangSwitchDeadline p => bhOk p
  | .switchRestore p => bhOk p
  | .grainChange bh slice => bhOk bh && decide (slice < 8)
  | .coherenceRequest core _ _ => coreOk core
  | .hostSnoop p _ _ => bhOk p
  | .birsp bh _ _ _ => bhOk bh
  | .hostMemoryRequest port _ _ => decide (port < 2)
  | .hostAtomicop port _ _ _ _ _ => decide (port < 2)
  | .crossBulkheadAccess imp exp _ _ => bhOk imp && bhOk exp
  | .clusterPowerGate cl => clOk cl
  | .clusterUngate cl => clOk cl
  | .matrixCommandStart cl _ => clOk cl
  | .matrixCommandComplete cl => clOk cl
  | .drainRow cl => clOk cl
  | .dploadImageRead cl _ => clOk cl
  | .outboundForward u => unitOk u
  | .streamerArrival cl _ => clOk cl
  | .streamerPiece cl => clOk cl
  | .gateEnterQueue u _ => unitOk u
  | .groupTimerExpiry p g => bhOk p && decide (g < 64)
  | .groupFillData p g => bhOk p && decide (g < 64)
  | .messageDelivery core ctx => coreOk core && ctxOk core ctx
  | .sendAnswer core ctx => coreOk core && ctxOk core ctx
  | .sendRetry core _ => coreOk core
  | .doorbellWrite port vf q _ => decide (port < 2) && decide (vf < 192) && decide (q < 1024)
  | .slotMap p slot => bhOk p && decide (slot < 64)
  | .slotUnmap p slot => bhOk p && decide (slot < 64)
  | .codemapScan p => bhOk p
  | .partitionStart p => bhOk p
  | .partitionReset p => bhOk p
  | .vfReset p => bhOk p
  | .functionLevelReset vf => decide (vf < 192)
  | .bulkheadReset b _ => bhOk b
  | .bulkheadFault b _ => bhOk b
  | .uncorrectableError b => bhOk b
  | .atsTranslationCompletion bh _ _ => bhOk bh
  | .priResponse bh _ _ => bhOk bh
  | .atsInvalidateRequest p _ _ _ => bhOk p
  | .invalidateCompletion p => bhOk p
  | .linkStateChange port _ _ => decide (port < 2)
  | .hostRequestTimeout p _ => bhOk p
  | .remoteInboundAccess port _ _ p _ _ => decide (port < 72) && bhOk p
  | .remoteTimeout _ => true
  | .laneStop port lane => decide (port < 72) && decide (lane < 4)
  | .laneGo port lane => decide (port < 72) && decide (lane < 4)
  | .vfTableWrite port p vf _ => decide (port < 2) && bhOk p && decide (vf < 192)
  | .windowTableWrite p w _ _ => bhOk p && decide (w < 8)
  | .replayInject p => bhOk p
  | .moduleReset _ => true
  | .firmwareRunning => true
  | .quoteRequest => true
  | .pwrcapWrite _ => true
  | .powerSample _ _ _ _ => true
  | .powerThrottle _ => true
  | .thermalThrottle _ => true
  | .overtempReset die _ => decide (die < 8)
  | .registerWrite _ _ => true
  | .hostLinkCompletion p _ _ => bhOk p
  | .remoteResponse _ _ => true
  | .reedLinkStateChange port _ => decide (port < 72)
  | .flitReplay port => decide (port < 72)
  | .scWindowClose core ctx => coreOk core && ctxOk core ctx

end Sys2Proof
end

