-- ==== Sys2Proof/Decode.lean ====
section
/-! DEFINITION. The decoder, from the bytes of the instruction stream to an instruction or a named refusal, and the
encoder, both from the formats of R39-R46 and the fields of spec/opcode_table.json. -/

namespace Sys2Proof

/-- Bits [lo + n - 1 : lo] of a word. -/
def fld (w : BitVec 32) (lo n : Nat) : BitVec n := w.extractLsb' lo n
/-- Bits [lo + n - 1 : lo] of a parcel. -/
def pfld (h : BitVec 16) (lo n : Nat) : BitVec n := h.extractLsb' lo n
/-- One bit as a Bool, and back. -/
def bitOf (b : BitVec 1) : Bool := b == 1#1
def ofBit (b : Bool) : BitVec 1 := BitVec.ofBool b

/-- The code of a Size field (R40). -/
def Size.bits : Size → BitVec 2
  | .b => 0#2
  | .h => 1#2
  | .w => 2#2
  | .d => 3#2
/-- A Size field read; the other codes are reserved (R40). -/
def Size.ofBits (x : BitVec 2) : Option Size :=
  match x.toNat with
  | 0 => some .b
  | 1 => some .h
  | 2 => some .w
  | 3 => some .d
  | _ => none
/-- The code of a Order field (R40). -/
def Order.bits : Order → BitVec 2
  | .plain => 0#2
  | .acq => 1#2
  | .rel => 2#2
  | .sc => 3#2
/-- A Order field read; the other codes are reserved (R40). -/
def Order.ofBits (x : BitVec 2) : Option Order :=
  match x.toNat with
  | 0 => some .plain
  | 1 => some .acq
  | 2 => some .rel
  | 3 => some .sc
  | _ => none
/-- The code of a Scope field (R40). -/
def Scope.bits : Scope → BitVec 3
  | .core => 0#3
  | .clu => 1#3
  | .blk => 2#3
  | .part => 3#3
  | .dev => 4#3
  | .sys => 5#3
/-- A Scope field read; the other codes are reserved (R40). -/
def Scope.ofBits (x : BitVec 3) : Option Scope :=
  match x.toNat with
  | 0 => some .core
  | 1 => some .clu
  | 2 => some .blk
  | 3 => some .part
  | 4 => some .dev
  | 5 => some .sys
  | _ => none
/-- The code of a Prec field (R103). -/
def Prec.bits : Prec → BitVec 1
  | .f32 => 0#1
  | .f64 => 1#1
/-- A Prec field read; the other codes are reserved (R103). -/
def Prec.ofBits (x : BitVec 1) : Option Prec :=
  match x.toNat with
  | 0 => some .f32
  | 1 => some .f64
  | _ => none
/-- The code of a Rm field (R86). -/
def Rm.bits : Rm → BitVec 3
  | .rne => 0#3
  | .rtz => 1#3
  | .rdn => 2#3
  | .rup => 3#3
  | .rmm => 4#3
/-- A Rm field read; the other codes are reserved (R86). -/
def Rm.ofBits (x : BitVec 3) : Option Rm :=
  match x.toNat with
  | 0 => some .rne
  | 1 => some .rtz
  | 2 => some .rdn
  | 3 => some .rup
  | 4 => some .rmm
  | _ => none
/-- The code of a VType field (R40). -/
def VType.bits : VType → BitVec 2
  | .f32 => 0#2
  | .bf16 => 1#2
  | .f16 => 2#2
  | .f64 => 3#2
/-- A VType field read; the other codes are reserved (R40). -/
def VType.ofBits (x : BitVec 2) : Option VType :=
  match x.toNat with
  | 0 => some .f32
  | 1 => some .bf16
  | 2 => some .f16
  | 3 => some .f64
  | _ => none
/-- The code of a CvtKind field (R105). -/
def CvtKind.bits : CvtKind → BitVec 2
  | .ff => 0#2
  | .fi => 1#2
  | .if_ => 2#2
  | .fu => 3#2
/-- A CvtKind field read; the other codes are reserved (R105). -/
def CvtKind.ofBits (x : BitVec 2) : Option CvtKind :=
  match x.toNat with
  | 0 => some .ff
  | 1 => some .fi
  | 2 => some .if_
  | 3 => some .fu
  | _ => none
/-- The code of a XFile field (R72). -/
def XFile.bits : XFile → BitVec 1
  | .e => 0#1
  | .i => 1#1
/-- A XFile field read; the other codes are reserved (R72). -/
def XFile.ofBits (x : BitVec 1) : Option XFile :=
  match x.toNat with
  | 0 => some .e
  | 1 => some .i
  | _ => none
/-- The code of a RdSel field (R113). -/
def RdSel.bits : RdSel → BitVec 6
  | .id => 0#6
  | .place => 1#6
  | .part => 2#6
/-- A RdSel field read; the other codes are reserved (R113). -/
def RdSel.ofBits (x : BitVec 6) : Option RdSel :=
  match x.toNat with
  | 0 => some .id
  | 1 => some .place
  | 2 => some .part
  | _ => none
/-- The code of a VCond field (R128). -/
def VCond.bits : VCond → BitVec 3
  | .eq => 0#3
  | .ne => 1#3
  | .lt => 2#3
  | .ltu => 3#3
  | .feq => 4#3
  | .flt => 5#3
  | .fle => 6#3
  | .fun_ => 7#3
/-- A VCond field read; the other codes are reserved (R128). -/
def VCond.ofBits (x : BitVec 3) : Option VCond :=
  match x.toNat with
  | 0 => some .eq
  | 1 => some .ne
  | 2 => some .lt
  | 3 => some .ltu
  | 4 => some .feq
  | 5 => some .flt
  | 6 => some .fle
  | 7 => some .fun_
  | _ => none
/-- The code of a VTestOp field (R129). -/
def VTestOp.bits : VTestOp → BitVec 2
  | .any => 0#2
  | .all => 1#2
  | .none_ => 2#2
  | .count => 3#2
/-- A VTestOp field read; the other codes are reserved (R129). -/
def VTestOp.ofBits (x : BitVec 2) : Option VTestOp :=
  match x.toNat with
  | 0 => some .any
  | 1 => some .all
  | 2 => some .none_
  | 3 => some .count
  | _ => none
/-- The code of a VCvtCode field (R130). -/
def VCvtCode.bits : VCvtCode → BitVec 5
  | .f32bf16 => 0#5
  | .f32f16 => 1#5
  | .bf16f32lo => 2#5
  | .bf16f32hi => 3#5
  | .f16f32lo => 4#5
  | .f16f32hi => 5#5
  | .f32i32 => 6#5
  | .f32i32rtz => 7#5
  | .i32f32 => 8#5
  | .f32f64lo => 9#5
  | .f32f64hi => 10#5
  | .f64f32 => 11#5
  | .f64i64rtz => 12#5
  | .i64f64 => 13#5
/-- A VCvtCode field read; the other codes are reserved (R130). -/
def VCvtCode.ofBits (x : BitVec 5) : Option VCvtCode :=
  match x.toNat with
  | 0 => some .f32bf16
  | 1 => some .f32f16
  | 2 => some .bf16f32lo
  | 3 => some .bf16f32hi
  | 4 => some .f16f32lo
  | 5 => some .f16f32hi
  | 6 => some .f32i32
  | 7 => some .f32i32rtz
  | 8 => some .i32f32
  | 9 => some .f32f64lo
  | 10 => some .f32f64hi
  | 11 => some .f64f32
  | 12 => some .f64i64rtz
  | 13 => some .i64f64
  | _ => none
/-- The code of a PackCode field (R131). -/
def PackCode.bits : PackCode → BitVec 4
  | .e4m3 => 0#4
  | .e5m2 => 1#4
  | .e3m2 => 2#4
  | .e2m3 => 3#4
  | .int8 => 4#4
  | .int4 => 5#4
  | .q4k0 => 8#4
  | .q4k1 => 9#4
  | .q4k2 => 10#4
  | .q4k3 => 11#4
/-- A PackCode field read; the other codes are reserved (R131). -/
def PackCode.ofBits (x : BitVec 4) : Option PackCode :=
  match x.toNat with
  | 0 => some .e4m3
  | 1 => some .e5m2
  | 2 => some .e3m2
  | 3 => some .e2m3
  | 4 => some .int8
  | 5 => some .int4
  | 8 => some .q4k0
  | 9 => some .q4k1
  | 10 => some .q4k2
  | 11 => some .q4k3
  | _ => none
/-- The code of a VRedOp field (R135). -/
def VRedOp.bits : VRedOp → BitVec 5
  | .fadd => 0#5
  | .fmax => 1#5
  | .fmin => 2#5
  | .addw => 3#5
  | .maxw => 4#5
  | .minw => 5#5
  | .addd => 6#5
  | .faddf64 => 7#5
  | .and => 8#5
  | .or => 9#5
  | .xor => 10#5
/-- A VRedOp field read; the other codes are reserved (R135). -/
def VRedOp.ofBits (x : BitVec 5) : Option VRedOp :=
  match x.toNat with
  | 0 => some .fadd
  | 1 => some .fmax
  | 2 => some .fmin
  | 3 => some .addw
  | 4 => some .maxw
  | 5 => some .minw
  | 6 => some .addd
  | 7 => some .faddf64
  | 8 => some .and
  | 9 => some .or
  | 10 => some .xor
  | _ => none
/-- The code of a XForm field (R138). -/
def XForm.bits : XForm → BitVec 2
  | .f32 => 0#2
  | .f64 => 1#2
  | .vf32 => 2#2
  | .vf64 => 3#2
/-- A XForm field read; the other codes are reserved (R138). -/
def XForm.ofBits (x : BitVec 2) : Option XForm :=
  match x.toNat with
  | 0 => some .f32
  | 1 => some .f64
  | 2 => some .vf32
  | 3 => some .vf64
  | _ => none
/-- The engine flags of R208: [5] mode, [4:2] scope, [1] REL, [0] ACQ. -/
def EFlags.bits (x : EFlags) : BitVec 6 := ofBit x.dec ++ (x.scope.bits ++ (ofBit x.rel ++ ofBit x.acq))
/-- The engine flags read; scopes 6 and 7 are refused (R208). -/
def EFlags.ofBits (x : BitVec 6) : Option EFlags :=
  (Scope.ofBits (x.extractLsb' 2 3)).map fun c =>
    { acq := bitOf (x.extractLsb' 0 1), rel := bitOf (x.extractLsb' 1 1), scope := c, dec := bitOf (x.extractLsb' 5 1) }

/-- Major 0x00 (R43). -/
def decMaj00 (w : BitVec 32) : Option Instr :=
  if fld w 22 10 = 0#10 then some (.add (fld w 7 5) (fld w 12 5) (fld w 17 5)) else
  if fld w 22 10 = 1#10 then some (.sub (fld w 7 5) (fld w 12 5) (fld w 17 5)) else
  if fld w 22 10 = 2#10 then some (.and (fld w 7 5) (fld w 12 5) (fld w 17 5)) else
  if fld w 22 10 = 3#10 then some (.or (fld w 7 5) (fld w 12 5) (fld w 17 5)) else
  if fld w 22 10 = 4#10 then some (.xor (fld w 7 5) (fld w 12 5) (fld w 17 5)) else
  if fld w 22 10 = 5#10 then some (.shl (fld w 7 5) (fld w 12 5) (fld w 17 5)) else
  if fld w 22 10 = 6#10 then some (.shr (fld w 7 5) (fld w 12 5) (fld w 17 5)) else
  if fld w 22 10 = 7#10 then some (.sra (fld w 7 5) (fld w 12 5) (fld w 17 5)) else
  if fld w 22 10 = 8#10 then some (.rot (fld w 7 5) (fld w 12 5) (fld w 17 5)) else
  if fld w 22 10 = 9#10 then some (.min (fld w 7 5) (fld w 12 5) (fld w 17 5)) else
  if fld w 22 10 = 10#10 then some (.max (fld w 7 5) (fld w 12 5) (fld w 17 5)) else
  if fld w 22 10 = 11#10 then some (.minu (fld w 7 5) (fld w 12 5) (fld w 17 5)) else
  if fld w 22 10 = 12#10 then some (.maxu (fld w 7 5) (fld w 12 5) (fld w 17 5)) else
  if fld w 22 10 = 13#10 then some (.sel (fld w 7 5) (fld w 12 5) (fld w 17 5)) else
  if fld w 22 10 = 14#10 then some (.slt (fld w 7 5) (fld w 12 5) (fld w 17 5)) else
  if fld w 22 10 = 15#10 then some (.sltu (fld w 7 5) (fld w 12 5) (fld w 17 5)) else
  none
/-- Major 0x01 (R43). -/
def decMaj01 (w : BitVec 32) : Option Instr :=
  if fld w 22 10 = 0#10 then some (.mul (fld w 7 5) (fld w 12 5) (fld w 17 5)) else
  if fld w 22 10 = 1#10 then some (.mulh (fld w 7 5) (fld w 12 5) (fld w 17 5)) else
  if fld w 22 10 = 2#10 then some (.mulhu (fld w 7 5) (fld w 12 5) (fld w 17 5)) else
  if fld w 22 10 = 3#10 then some (.div (fld w 7 5) (fld w 12 5) (fld w 17 5)) else
  if fld w 22 10 = 4#10 then some (.divu (fld w 7 5) (fld w 12 5) (fld w 17 5)) else
  if fld w 22 10 = 5#10 then some (.rem (fld w 7 5) (fld w 12 5) (fld w 17 5)) else
  if fld w 22 10 = 6#10 then some (.remu (fld w 7 5) (fld w 12 5) (fld w 17 5)) else
  if fld w 17 15 = 224#15 then some (.clz (fld w 7 5) (fld w 12 5)) else
  if fld w 17 15 = 256#15 then some (.ctz (fld w 7 5) (fld w 12 5)) else
  if fld w 17 15 = 288#15 then some (.popc (fld w 7 5) (fld w 12 5)) else
  if fld w 28 4 = 0#4 ∧ fld w 17 9 = 320#9 then (Size.ofBits (fld w 26 2)).bind fun s => some (.sext s (fld w 7 5) (fld w 12 5)) else
  if fld w 28 4 = 0#4 ∧ fld w 17 9 = 352#9 then (Size.ofBits (fld w 26 2)).bind fun s => some (.zext s (fld w 7 5) (fld w 12 5)) else
  if fld w 22 10 = 12#10 then some (.seq (fld w 7 5) (fld w 12 5) (fld w 17 5)) else
  if fld w 22 10 = 13#10 then some (.sne (fld w 7 5) (fld w 12 5) (fld w 17 5)) else
  if fld w 17 15 = 448#15 then some (.brev (fld w 7 5) (fld w 12 5)) else
  none
/-- Major 0x02 (R43). -/
def decMaj02 (w : BitVec 32) : Option Instr :=
  some (.addi (fld w 7 5) (fld w 12 5) (fld w 17 15))
/-- Major 0x03 (R43). -/
def decMaj03 (w : BitVec 32) : Option Instr :=
  some (.andi (fld w 7 5) (fld w 12 5) (fld w 17 15))
/-- Major 0x04 (R43). -/
def decMaj04 (w : BitVec 32) : Option Instr :=
  some (.ori (fld w 7 5) (fld w 12 5) (fld w 17 15))
/-- Major 0x05 (R43). -/
def decMaj05 (w : BitVec 32) : Option Instr :=
  some (.xori (fld w 7 5) (fld w 12 5) (fld w 17 15))
/-- Major 0x06 (R43). -/
def decMaj06 (w : BitVec 32) : Option Instr :=
  if fld w 23 9 = 0#9 then some (.shli (fld w 7 5) (fld w 12 5) (fld w 17 6)) else
  if fld w 23 9 = 128#9 then some (.shri (fld w 7 5) (fld w 12 5) (fld w 17 6)) else
  if fld w 23 9 = 256#9 then some (.srai (fld w 7 5) (fld w 12 5) (fld w 17 6)) else
  none
/-- Major 0x07 (R43). -/
def decMaj07 (w : BitVec 32) : Option Instr :=
  some (.slti (fld w 7 5) (fld w 12 5) (fld w 17 15))
/-- Major 0x08 (R43). -/
def decMaj08 (w : BitVec 32) : Option Instr :=
  if fld w 12 5 = 0#5 then some (.movi (fld w 7 5) (fld w 17 15)) else
  none
/-- Major 0x09 (R43). -/
def decMaj09 (w : BitVec 32) : Option Instr :=
  if fld w 12 5 = 0#5 then some (.lis (fld w 7 5) (fld w 17 15)) else
  none
/-- Major 0x0a (R43). -/
def decMaj0a (w : BitVec 32) : Option Instr :=
  if fld w 30 2 = 0#2 ∧ fld w 22 4 = 0#4 then (Prec.ofBits (fld w 26 1)).bind fun p => (Rm.ofBits (fld w 27 3)).bind fun rm => some (.fadd p rm (fld w 7 5) (fld w 12 5) (fld w 17 5)) else
  if fld w 30 2 = 0#2 ∧ fld w 22 4 = 1#4 then (Prec.ofBits (fld w 26 1)).bind fun p => (Rm.ofBits (fld w 27 3)).bind fun rm => some (.fsub p rm (fld w 7 5) (fld w 12 5) (fld w 17 5)) else
  if fld w 30 2 = 0#2 ∧ fld w 22 4 = 2#4 then (Prec.ofBits (fld w 26 1)).bind fun p => (Rm.ofBits (fld w 27 3)).bind fun rm => some (.fmul p rm (fld w 7 5) (fld w 12 5) (fld w 17 5)) else
  if fld w 30 2 = 0#2 ∧ fld w 22 4 = 3#4 then (Prec.ofBits (fld w 26 1)).bind fun p => (Rm.ofBits (fld w 27 3)).bind fun rm => some (.fdiv p rm (fld w 7 5) (fld w 12 5) (fld w 17 5)) else
  if fld w 30 2 = 0#2 ∧ fld w 17 9 = 128#9 then (Prec.ofBits (fld w 26 1)).bind fun p => (Rm.ofBits (fld w 27 3)).bind fun rm => some (.fsqrt p rm (fld w 7 5) (fld w 12 5)) else
  if fld w 27 5 = 0#5 ∧ fld w 22 4 = 5#4 then (Prec.ofBits (fld w 26 1)).bind fun p => some (.fmin p (fld w 7 5) (fld w 12 5) (fld w 17 5)) else
  if fld w 27 5 = 0#5 ∧ fld w 22 4 = 6#4 then (Prec.ofBits (fld w 26 1)).bind fun p => some (.fmax p (fld w 7 5) (fld w 12 5) (fld w 17 5)) else
  if fld w 30 2 = 0#2 ∧ fld w 22 4 = 7#4 then (Prec.ofBits (fld w 26 1)).bind fun p => (Rm.ofBits (fld w 27 3)).bind fun rm => some (.ffma p rm (fld w 7 5) (fld w 12 5) (fld w 17 5)) else
  if fld w 17 9 = 256#9 then (CvtKind.ofBits (fld w 30 2)).bind fun k => (Prec.ofBits (fld w 26 1)).bind fun p => (Rm.ofBits (fld w 27 3)).bind fun rm => some (.fcvt k p rm (fld w 7 5) (fld w 12 5)) else
  if fld w 27 5 = 0#5 ∧ fld w 17 9 = 288#9 then (Prec.ofBits (fld w 26 1)).bind fun p => some (.fclass p (fld w 7 5) (fld w 12 5)) else
  if fld w 27 5 = 0#5 ∧ fld w 22 4 = 10#4 then (Prec.ofBits (fld w 26 1)).bind fun p => some (.feq p (fld w 7 5) (fld w 12 5) (fld w 17 5)) else
  if fld w 27 5 = 0#5 ∧ fld w 22 4 = 11#4 then (Prec.ofBits (fld w 26 1)).bind fun p => some (.flt p (fld w 7 5) (fld w 12 5) (fld w 17 5)) else
  if fld w 27 5 = 0#5 ∧ fld w 22 4 = 12#4 then (Prec.ofBits (fld w 26 1)).bind fun p => some (.fle p (fld w 7 5) (fld w 12 5) (fld w 17 5)) else
  none
/-- Major 0x0b (R43). -/
def decMaj0b (w : BitVec 32) : Option Instr :=
  some (.beq (fld w 7 5) (fld w 12 5) (fld w 17 15))
/-- Major 0x0c (R43). -/
def decMaj0c (w : BitVec 32) : Option Instr :=
  some (.bne (fld w 7 5) (fld w 12 5) (fld w 17 15))
/-- Major 0x0d (R43). -/
def decMaj0d (w : BitVec 32) : Option Instr :=
  some (.blt (fld w 7 5) (fld w 12 5) (fld w 17 15))
/-- Major 0x0e (R43). -/
def decMaj0e (w : BitVec 32) : Option Instr :=
  some (.bge (fld w 7 5) (fld w 12 5) (fld w 17 15))
/-- Major 0x0f (R43). -/
def decMaj0f (w : BitVec 32) : Option Instr :=
  some (.bltu (fld w 7 5) (fld w 12 5) (fld w 17 15))
/-- Major 0x10 (R43). -/
def decMaj10 (w : BitVec 32) : Option Instr :=
  some (.bgeu (fld w 7 5) (fld w 12 5) (fld w 17 15))
/-- Major 0x11 (R43). -/
def decMaj11 (w : BitVec 32) : Option Instr :=
  some (.j (fld w 7 25))
/-- Major 0x12 (R43). -/
def decMaj12 (w : BitVec 32) : Option Instr :=
  some (.jal (fld w 7 25))
/-- Major 0x13 (R43). -/
def decMaj13 (w : BitVec 32) : Option Instr :=
  if fld w 17 15 = 0#15 ∧ fld w 0 12 = 39#12 then some (.jr (fld w 12 5)) else
  if fld w 17 15 = 32#15 then some (.jalr (fld w 7 5) (fld w 12 5)) else
  none
/-- Major 0x14 (R43). -/
def decMaj14 (w : BitVec 32) : Option Instr :=
  if fld w 27 5 = 0#5 ∧ fld w 17 9 = 0#9 then (XFile.ofBits (fld w 26 1)).bind fun f => some (.sete f (fld w 7 5) (fld w 12 5)) else
  if fld w 27 5 = 0#5 ∧ fld w 17 9 = 32#9 then (XFile.ofBits (fld w 26 1)).bind fun f => some (.gete f (fld w 7 5) (fld w 12 5)) else
  if fld w 12 20 = 2048#20 then some (.rdts (fld w 7 5)) else
  if fld w 12 14 = 3072#14 then (RdSel.ofBits (fld w 26 6)).bind fun ix => some (.rdid ix (fld w 7 5)) else
  if fld w 22 10 = 4#10 then some (.poolw (fld w 7 15)) else
  if fld w 0 32 = 20971561#32 then some (.yieldG) else
  none
/-- Major 0x15 (R43). -/
def decMaj15 (w : BitVec 32) : Option Instr :=
  (Size.ofBits (fld w 17 2)).bind fun s => (Order.ofBits (fld w 19 2)).bind fun o => (Scope.ofBits (fld w 21 3)).bind fun c => some (.ld s o c (fld w 7 5) (fld w 12 5) (fld w 24 8))
/-- Major 0x16 (R43). -/
def decMaj16 (w : BitVec 32) : Option Instr :=
  (Size.ofBits (fld w 17 2)).bind fun s => (Order.ofBits (fld w 19 2)).bind fun o => (Scope.ofBits (fld w 21 3)).bind fun c => some (.lds s o c (fld w 7 5) (fld w 12 5) (fld w 24 8))
/-- Major 0x17 (R43). -/
def decMaj17 (w : BitVec 32) : Option Instr :=
  (Size.ofBits (fld w 17 2)).bind fun s => (Order.ofBits (fld w 19 2)).bind fun o => (Scope.ofBits (fld w 21 3)).bind fun c => some (.st s o c (fld w 7 5) (fld w 12 5) (fld w 24 8))
/-- Major 0x18 (R43). -/
def decMaj18 (w : BitVec 32) : Option Instr :=
  if fld w 17 2 = 3#2 then (Order.ofBits (fld w 19 2)).bind fun o => (Scope.ofBits (fld w 21 3)).bind fun c => some (.ldfe o c (fld w 7 5) (fld w 12 5) (fld w 24 8)) else
  none
/-- Major 0x19 (R43). -/
def decMaj19 (w : BitVec 32) : Option Instr :=
  if fld w 17 2 = 3#2 then (Order.ofBits (fld w 19 2)).bind fun o => (Scope.ofBits (fld w 21 3)).bind fun c => some (.ldf o c (fld w 7 5) (fld w 12 5) (fld w 24 8)) else
  none
/-- Major 0x1a (R43). -/
def decMaj1a (w : BitVec 32) : Option Instr :=
  if fld w 17 2 = 3#2 then (Order.ofBits (fld w 19 2)).bind fun o => (Scope.ofBits (fld w 21 3)).bind fun c => some (.stef o c (fld w 7 5) (fld w 12 5) (fld w 24 8)) else
  none
/-- Major 0x1b (R43). -/
def decMaj1b (w : BitVec 32) : Option Instr :=
  if fld w 17 2 = 3#2 then (Order.ofBits (fld w 19 2)).bind fun o => (Scope.ofBits (fld w 21 3)).bind fun c => some (.stf o c (fld w 7 5) (fld w 12 5) (fld w 24 8)) else
  none
/-- Major 0x1c (R43). -/
def decMaj1c (w : BitVec 32) : Option Instr :=
  if fld w 31 1 = 0#1 ∧ fld w 0 26 = 57#26 then (Order.ofBits (fld w 26 2)).bind fun k => (Scope.ofBits (fld w 28 3)).bind fun c => some (.fence k c) else
  if fld w 12 20 = 1024#20 then some (.feget (fld w 7 5)) else
  if fld w 17 15 = 64#15 ∧ fld w 0 12 = 57#12 then some (.feset (fld w 12 5)) else
  if fld w 28 4 = 0#4 ∧ fld w 17 9 = 96#9 ∧ fld w 0 12 = 57#12 then some (.pref (bitOf (fld w 27 1)) (bitOf (fld w 26 1)) (fld w 12 5)) else
  if fld w 28 4 = 0#4 ∧ fld w 17 9 = 128#9 ∧ fld w 0 12 = 57#12 then some (.flush (bitOf (fld w 27 1)) (bitOf (fld w 26 1)) (fld w 12 5)) else
  if fld w 17 15 = 160#15 then some (.gjoin (fld w 7 5) (fld w 12 5)) else
  if fld w 17 15 = 192#15 then some (.gleave (fld w 7 5) (fld w 12 5)) else
  if fld w 22 10 = 7#10 then some (.gload (fld w 7 5) (fld w 12 5) (fld w 17 5)) else
  none
/-- Major 0x1d (R43). -/
def decMaj1d (w : BitVec 32) : Option Instr :=
  if fld w 22 4 = 0#4 then (Order.ofBits (fld w 26 2)).bind fun o => (Scope.ofBits (fld w 28 3)).bind fun c => some (.amoAdd (bitOf (fld w 31 1)) o c (fld w 7 5) (fld w 12 5) (fld w 17 5)) else
  if fld w 22 4 = 1#4 then (Order.ofBits (fld w 26 2)).bind fun o => (Scope.ofBits (fld w 28 3)).bind fun c => some (.amoAnd (bitOf (fld w 31 1)) o c (fld w 7 5) (fld w 12 5) (fld w 17 5)) else
  if fld w 22 4 = 2#4 then (Order.ofBits (fld w 26 2)).bind fun o => (Scope.ofBits (fld w 28 3)).bind fun c => some (.amoOr (bitOf (fld w 31 1)) o c (fld w 7 5) (fld w 12 5) (fld w 17 5)) else
  if fld w 22 4 = 3#4 then (Order.ofBits (fld w 26 2)).bind fun o => (Scope.ofBits (fld w 28 3)).bind fun c => some (.amoXor (bitOf (fld w 31 1)) o c (fld w 7 5) (fld w 12 5) (fld w 17 5)) else
  if fld w 22 4 = 4#4 then (Order.ofBits (fld w 26 2)).bind fun o => (Scope.ofBits (fld w 28 3)).bind fun c => some (.amoMin (bitOf (fld w 31 1)) o c (fld w 7 5) (fld w 12 5) (fld w 17 5)) else
  if fld w 22 4 = 5#4 then (Order.ofBits (fld w 26 2)).bind fun o => (Scope.ofBits (fld w 28 3)).bind fun c => some (.amoMax (bitOf (fld w 31 1)) o c (fld w 7 5) (fld w 12 5) (fld w 17 5)) else
  if fld w 22 4 = 6#4 then (Order.ofBits (fld w 26 2)).bind fun o => (Scope.ofBits (fld w 28 3)).bind fun c => some (.amoMinu (bitOf (fld w 31 1)) o c (fld w 7 5) (fld w 12 5) (fld w 17 5)) else
  if fld w 22 4 = 7#4 then (Order.ofBits (fld w 26 2)).bind fun o => (Scope.ofBits (fld w 28 3)).bind fun c => some (.amoMaxu (bitOf (fld w 31 1)) o c (fld w 7 5) (fld w 12 5) (fld w 17 5)) else
  if fld w 22 4 = 8#4 then (Order.ofBits (fld w 26 2)).bind fun o => (Scope.ofBits (fld w 28 3)).bind fun c => some (.amoSwap (bitOf (fld w 31 1)) o c (fld w 7 5) (fld w 12 5) (fld w 17 5)) else
  if fld w 22 4 = 9#4 then (Order.ofBits (fld w 26 2)).bind fun o => (Scope.ofBits (fld w 28 3)).bind fun c => some (.amoFadd (bitOf (fld w 31 1)) o c (fld w 7 5) (fld w 12 5) (fld w 17 5)) else
  none
/-- Major 0x1e (R43). -/
def decMaj1e (w : BitVec 32) : Option Instr :=
  if fld w 22 4 = 0#4 then (Order.ofBits (fld w 26 2)).bind fun o => (Scope.ofBits (fld w 28 3)).bind fun c => some (.cas (bitOf (fld w 31 1)) o c (fld w 7 5) (fld w 12 5) (fld w 17 5)) else
  none
/-- Major 0x1f (R43). -/
def decMaj1f (w : BitVec 32) : Option Instr :=
  if fld w 24 8 = 0#8 then (VType.ofBits (fld w 22 2)).bind fun t => some (.vadd t (fld w 7 5) (fld w 12 5) (fld w 17 5)) else
  if fld w 24 8 = 8#8 then (VType.ofBits (fld w 22 2)).bind fun t => some (.vsub t (fld w 7 5) (fld w 12 5) (fld w 17 5)) else
  if fld w 24 8 = 16#8 then (VType.ofBits (fld w 22 2)).bind fun t => some (.vmul t (fld w 7 5) (fld w 12 5) (fld w 17 5)) else
  if fld w 24 8 = 24#8 then (VType.ofBits (fld w 22 2)).bind fun t => some (.vdiv t (fld w 7 5) (fld w 12 5) (fld w 17 5)) else
  if fld w 24 8 = 32#8 then (VType.ofBits (fld w 22 2)).bind fun t => some (.vmin t (fld w 7 5) (fld w 12 5) (fld w 17 5)) else
  if fld w 24 8 = 40#8 then (VType.ofBits (fld w 22 2)).bind fun t => some (.vmax t (fld w 7 5) (fld w 12 5) (fld w 17 5)) else
  if fld w 24 8 = 48#8 ∧ fld w 17 5 = 0#5 then (VType.ofBits (fld w 22 2)).bind fun t => some (.vabs t (fld w 7 5) (fld w 12 5)) else
  if fld w 24 8 = 56#8 ∧ fld w 17 5 = 0#5 then (VType.ofBits (fld w 22 2)).bind fun t => some (.vneg t (fld w 7 5) (fld w 12 5)) else
  if fld w 24 8 = 64#8 ∧ fld w 17 5 = 0#5 then (VType.ofBits (fld w 22 2)).bind fun t => some (.vsqrt t (fld w 7 5) (fld w 12 5)) else
  if fld w 24 8 = 72#8 ∧ fld w 17 5 = 0#5 then (VType.ofBits (fld w 22 2)).bind fun t => some (.vrcp t (fld w 7 5) (fld w 12 5)) else
  if fld w 24 8 = 80#8 ∧ fld w 17 5 = 0#5 then (VType.ofBits (fld w 22 2)).bind fun t => some (.vrsq t (fld w 7 5) (fld w 12 5)) else
  if fld w 24 8 = 88#8 ∧ fld w 17 5 = 0#5 then (VType.ofBits (fld w 22 2)).bind fun t => some (.vexp2 t (fld w 7 5) (fld w 12 5)) else
  if fld w 24 8 = 96#8 ∧ fld w 17 5 = 0#5 then (VType.ofBits (fld w 22 2)).bind fun t => some (.vlog2 t (fld w 7 5) (fld w 12 5)) else
  none
/-- Major 0x20 (R43). -/
def decMaj20 (w : BitVec 32) : Option Instr :=
  if fld w 24 8 = 0#8 then (Size.ofBits (fld w 22 2)).bind fun s => some (.vaddI s (fld w 7 5) (fld w 12 5) (fld w 17 5)) else
  if fld w 24 8 = 8#8 then (Size.ofBits (fld w 22 2)).bind fun s => some (.vsubI s (fld w 7 5) (fld w 12 5) (fld w 17 5)) else
  if fld w 24 8 = 16#8 then (Size.ofBits (fld w 22 2)).bind fun s => some (.vmulI s (fld w 7 5) (fld w 12 5) (fld w 17 5)) else
  if fld w 24 8 = 24#8 then (Size.ofBits (fld w 22 2)).bind fun s => some (.vminI s (fld w 7 5) (fld w 12 5) (fld w 17 5)) else
  if fld w 24 8 = 32#8 then (Size.ofBits (fld w 22 2)).bind fun s => some (.vmaxI s (fld w 7 5) (fld w 12 5) (fld w 17 5)) else
  if fld w 24 8 = 40#8 then (Size.ofBits (fld w 22 2)).bind fun s => some (.vminuI s (fld w 7 5) (fld w 12 5) (fld w 17 5)) else
  if fld w 24 8 = 48#8 then (Size.ofBits (fld w 22 2)).bind fun s => some (.vmaxuI s (fld w 7 5) (fld w 12 5) (fld w 17 5)) else
  if fld w 24 8 = 56#8 then (Size.ofBits (fld w 22 2)).bind fun s => some (.vshlI s (fld w 7 5) (fld w 12 5) (fld w 17 5)) else
  if fld w 24 8 = 64#8 then (Size.ofBits (fld w 22 2)).bind fun s => some (.vshrI s (fld w 7 5) (fld w 12 5) (fld w 17 5)) else
  if fld w 24 8 = 72#8 then (Size.ofBits (fld w 22 2)).bind fun s => some (.vsraI s (fld w 7 5) (fld w 12 5) (fld w 17 5)) else
  if fld w 24 8 = 80#8 then (Size.ofBits (fld w 22 2)).bind fun s => some (.vandI s (fld w 7 5) (fld w 12 5) (fld w 17 5)) else
  if fld w 24 8 = 88#8 then (Size.ofBits (fld w 22 2)).bind fun s => some (.vorI s (fld w 7 5) (fld w 12 5) (fld w 17 5)) else
  if fld w 24 8 = 96#8 then (Size.ofBits (fld w 22 2)).bind fun s => some (.vxorI s (fld w 7 5) (fld w 12 5) (fld w 17 5)) else
  none
/-- Major 0x21 (R43). -/
def decMaj21 (w : BitVec 32) : Option Instr :=
  if fld w 26 1 = 0#1 then (VType.ofBits (fld w 27 2)).bind fun t => some (.vfmaBcast (fld w 29 3) t (fld w 22 4) (fld w 7 5) (fld w 12 5) (fld w 17 5)) else
  if fld w 22 5 = 16#5 then (VType.ofBits (fld w 27 2)).bind fun t => some (.vfma (fld w 29 3) t (fld w 7 5) (fld w 12 5) (fld w 17 5)) else
  if fld w 22 5 = 17#5 then (VType.ofBits (fld w 27 2)).bind fun t => some (.vfms (fld w 29 3) t (fld w 7 5) (fld w 12 5) (fld w 17 5)) else
  if fld w 22 5 = 18#5 then (VType.ofBits (fld w 27 2)).bind fun t => some (.vfnma (fld w 29 3) t (fld w 7 5) (fld w 12 5) (fld w 17 5)) else
  none
/-- Major 0x22 (R43). -/
def decMaj22 (w : BitVec 32) : Option Instr :=
  if fld w 30 2 = 0#2 ∧ fld w 0 12 = 69#12 then (VCond.ofBits (fld w 27 3)).bind fun c => some (.vcmp c (fld w 22 5) (fld w 12 5) (fld w 17 5)) else
  if fld w 27 5 = 8#5 then some (.vsel (fld w 22 5) (fld w 7 5) (fld w 12 5) (fld w 17 5)) else
  if fld w 29 3 = 4#3 then (VTestOp.ofBits (fld w 27 2)).bind fun q => some (.vtest q (fld w 22 5) (fld w 7 5) (fld w 12 5) (fld w 17 5)) else
  none
/-- Major 0x23 (R43). -/
def decMaj23 (w : BitVec 32) : Option Instr :=
  if fld w 27 5 = 0#5 then (VCvtCode.ofBits (fld w 22 5)).bind fun c => some (.vcvt c (fld w 7 5) (fld w 12 5) (fld w 17 5)) else
  if fld w 27 5 = 1#5 then ((if fld w 26 1 = 0#1 then PackCode.ofBits (fld w 22 4) else none)).bind fun c => some (.vpack c (fld w 7 5) (fld w 12 5) (fld w 17 5)) else
  if fld w 27 5 = 2#5 ∧ fld w 17 5 = 0#5 then (PackCode.ofBits (fld w 22 4)).bind fun c => some (.vunpk c (bitOf (fld w 26 1)) (fld w 7 5) (fld w 12 5)) else
  if fld w 24 8 = 24#8 then (VType.ofBits (fld w 22 2)).bind fun t => some (.vscale t (fld w 7 5) (fld w 12 5) (fld w 17 5)) else
  none
/-- Major 0x24 (R43). -/
def decMaj24 (w : BitVec 32) : Option Instr :=
  if fld w 23 9 = 0#9 then some (.vperm (bitOf (fld w 22 1)) (fld w 7 5) (fld w 12 5) (fld w 17 5)) else
  if fld w 24 8 = 8#8 ∧ fld w 17 5 = 0#5 then (Size.ofBits (fld w 22 2)).bind fun s => some (.vbcast s (fld w 7 5) (fld w 12 5)) else
  if fld w 27 5 = 2#5 ∧ fld w 17 5 = 0#5 then (VRedOp.ofBits (fld w 22 5)).bind fun o => some (.vred o (fld w 7 5) (fld w 12 5)) else
  if fld w 27 5 = 3#5 ∧ fld w 17 5 = 0#5 then some (.vmovg (fld w 22 5) (fld w 7 5) (fld w 12 5)) else
  if fld w 17 15 = 4096#15 then some (.vmovv (fld w 7 5) (fld w 12 5)) else
  if fld w 27 5 = 5#5 ∧ fld w 17 5 = 0#5 then some (.vlane (fld w 22 5) (fld w 7 5) (fld w 12 5)) else
  none
/-- Major 0x25 (R43). -/
def decMaj25 (w : BitVec 32) : Option Instr :=
  if fld w 17 2 = 0#2 then (Order.ofBits (fld w 19 2)).bind fun o => (Scope.ofBits (fld w 21 3)).bind fun c => some (.vld o c (fld w 7 5) (fld w 12 5) (fld w 24 8)) else
  if fld w 17 2 = 1#2 then (Order.ofBits (fld w 19 2)).bind fun o => (Scope.ofBits (fld w 21 3)).bind fun c => some (.vst o c (fld w 7 5) (fld w 12 5) (fld w 24 8)) else
  none
/-- Major 0x26 (R43). -/
def decMaj26 (w : BitVec 32) : Option Instr :=
  if fld w 24 8 = 0#8 then (Size.ofBits (fld w 22 2)).bind fun s => some (.vlds s (fld w 7 5) (fld w 12 5) (fld w 17 5)) else
  if fld w 24 8 = 8#8 then (Size.ofBits (fld w 22 2)).bind fun s => some (.vsts s (fld w 7 5) (fld w 12 5) (fld w 17 5)) else
  none
/-- Major 0x27 (R43). -/
def decMaj27 (w : BitVec 32) : Option Instr :=
  if fld w 23 9 = 1#9 then some (.vgath (bitOf (fld w 22 1)) (fld w 7 5) (fld w 12 5) (fld w 17 5)) else
  if fld w 23 9 = 17#9 then some (.vscat (bitOf (fld w 22 1)) (fld w 7 5) (fld w 12 5) (fld w 17 5)) else
  none
/-- Major 0x28 (R43). -/
def decMaj28 (w : BitVec 32) : Option Instr :=
  if fld w 27 5 = 0#5 ∧ fld w 17 5 = 0#5 then some (.vstm (fld w 22 5) (fld w 7 5) (fld w 12 5)) else
  if fld w 27 5 = 1#5 ∧ fld w 17 5 = 0#5 then some (.vldm (fld w 22 5) (fld w 7 5) (fld w 12 5)) else
  none
/-- Major 0x29 (R43). -/
def decMaj29 (w : BitVec 32) : Option Instr :=
  if fld w 22 9 = 0#9 ∧ fld w 0 12 = 83#12 then some (.xclr (bitOf (fld w 31 1)) (fld w 12 5) (fld w 17 5)) else
  if fld w 28 3 = 0#3 ∧ fld w 22 4 = 1#4 ∧ fld w 0 12 = 83#12 then (XForm.ofBits (fld w 26 2)).bind fun f => some (.xadd (bitOf (fld w 31 1)) f (fld w 12 5) (fld w 17 5)) else
  if fld w 28 3 = 0#3 ∧ fld w 22 5 = 2#5 then some (.xmadd (bitOf (fld w 31 1)) (bitOf (fld w 27 1)) (fld w 12 5) (fld w 17 5) (fld w 7 5)) else
  if fld w 31 1 = 0#1 ∧ fld w 17 9 = 96#9 then (Prec.ofBits (fld w 26 1)).bind fun p => (Rm.ofBits (fld w 27 3)).bind fun rm => some (.xrnd (bitOf (fld w 30 1)) p rm (fld w 7 5) (fld w 12 5)) else
  if fld w 22 9 = 4#9 ∧ fld w 0 12 = 83#12 then some (.xmerge (bitOf (fld w 31 1)) (fld w 12 5) (fld w 17 5)) else
  none
/-- Major 0x2a (R43). -/
def decMaj2a (w : BitVec 32) : Option Instr :=
  if fld w 20 6 = 0#6 ∧ fld w 12 5 = 0#5 then (EFlags.ofBits (fld w 26 6)).bind fun x => some (.mma x (fld w 7 5) (fld w 17 3)) else
  if fld w 20 6 = 4#6 ∧ fld w 12 5 = 0#5 then (EFlags.ofBits (fld w 26 6)).bind fun x => some (.mmag x (fld w 7 5) (fld w 17 3)) else
  if fld w 20 6 = 8#6 ∧ fld w 12 5 = 0#5 then (EFlags.ofBits (fld w 26 6)).bind fun x => some (.mzero x (fld w 7 5) (fld w 17 3)) else
  if fld w 20 6 = 12#6 ∧ fld w 12 5 = 0#5 then (EFlags.ofBits (fld w 26 6)).bind fun x => some (.mload x (fld w 7 5) (fld w 17 3)) else
  if fld w 20 6 = 16#6 ∧ fld w 12 5 = 0#5 then (EFlags.ofBits (fld w 26 6)).bind fun x => some (.mdrain x (fld w 7 5) (fld w 17 3)) else
  if fld w 20 12 = 20#12 ∧ fld w 12 5 = 0#5 then some (.mdres (fld w 7 5) (fld w 17 3)) else
  if fld w 20 12 = 24#12 then some (.accrd (fld w 7 5) (fld w 17 3) (fld w 12 5)) else
  if fld w 20 12 = 28#12 ∧ fld w 12 5 = 0#5 then some (.mstat (fld w 7 5) (fld w 17 3)) else
  if fld w 22 4 = 8#4 then (EFlags.ofBits (fld w 26 6)).bind fun x => some (.dpload x (fld w 7 5) (fld w 12 5) (fld w 17 5)) else
  none
/-- Major 0x2b (R43). -/
def decMaj2b (w : BitVec 32) : Option Instr :=
  if fld w 12 14 = 0#14 then (EFlags.ofBits (fld w 26 6)).bind fun x => some (.cpy x (fld w 7 5)) else
  if fld w 12 14 = 1024#14 then (EFlags.ofBits (fld w 26 6)).bind fun x => some (.cpys x (fld w 7 5)) else
  if fld w 12 14 = 2048#14 then (EFlags.ofBits (fld w 26 6)).bind fun x => some (.cpyg x (fld w 7 5)) else
  if fld w 12 14 = 3072#14 then (EFlags.ofBits (fld w 26 6)).bind fun x => some (.fill x (fld w 7 5)) else
  if fld w 22 10 = 4#10 then some (.gate (fld w 7 5) (fld w 12 5) (fld w 17 5)) else
  none
/-- Major 0x2c (R43). -/
def decMaj2c (w : BitVec 32) : Option Instr :=
  if fld w 17 15 = 0#15 then some (.watch (fld w 7 5) (fld w 12 5)) else
  if fld w 17 15 = 32#15 then some (.unwatch (fld w 7 5) (fld w 12 5)) else
  if fld w 12 20 = 17408#20 then some (.unwatchAll (fld w 7 5)) else
  if fld w 17 15 = 64#15 then some (.spawn (fld w 7 5) (fld w 12 5)) else
  if fld w 17 15 = 96#15 ∧ fld w 0 12 = 89#12 then some (.migrate (fld w 12 5)) else
  if fld w 17 15 = 128#15 then some (.wake (fld w 7 5) (fld w 12 5)) else
  if fld w 17 15 = 160#15 ∧ fld w 0 12 = 89#12 then some (.sleepT (fld w 12 5)) else
  none
/-- Major 0x2d (R43). -/
def decMaj2d (w : BitVec 32) : Option Instr :=
  if fld w 17 15 = 0#15 then some (.send (fld w 7 5) (fld w 12 5)) else
  if fld w 17 15 = 32#15 then some (.sendn (fld w 7 5) (fld w 12 5)) else
  if fld w 17 15 = 64#15 then some (.recv (fld w 7 5) (fld w 12 5)) else
  if fld w 12 20 = 3072#20 then some (.recvn (fld w 7 5)) else
  none
/-- Major 0x2e (R43). -/
def decMaj2e (w : BitVec 32) : Option Instr :=
  if fld w 17 15 = 0#15 then some (.tstop (fld w 7 5) (fld w 12 5)) else
  if fld w 17 15 = 32#15 then some (.tstart (fld w 7 5) (fld w 12 5)) else
  if fld w 22 10 = 2#10 then some (.tread (fld w 7 5) (fld w 12 5) (fld w 17 5)) else
  if fld w 22 10 = 18#10 then some (.treadTab (fld w 7 5) (fld w 12 5) (fld w 17 5)) else
  if fld w 22 10 = 34#10 then some (.treadLog (fld w 7 5) (fld w 12 5) (fld w 17 5)) else
  if fld w 31 1 = 0#1 ∧ fld w 22 4 = 3#4 then some (.twrite (fld w 26 5) (fld w 7 5) (fld w 12 5) (fld w 17 5)) else
  if fld w 22 10 = 515#10 then some (.twriteTab (fld w 7 5) (fld w 12 5) (fld w 17 5)) else
  if fld w 17 15 = 128#15 then some (.treap (fld w 7 5) (fld w 12 5)) else
  if fld w 17 15 = 160#15 then some (.tstat (fld w 7 5) (fld w 12 5)) else
  none
/-- Major 0x2f (R43). -/
def decMaj2f (w : BitVec 32) : Option Instr :=
  if fld w 17 15 = 0#15 then some (.nest (fld w 7 5) (fld w 12 5)) else
  if fld w 17 15 = 32#15 then some (.iter (fld w 7 5) (fld w 12 5)) else
  if fld w 0 32 = 71303263#32 then some (.iterStep) else
  none
/-- Major 0x30 (R43). -/
def decMaj30 (w : BitVec 32) : Option Instr :=
  if fld w 22 10 = 0#10 then some (.svc (fld w 7 5) (fld w 12 5) (fld w 17 5)) else
  if fld w 17 15 = 32#15 then some (.codemap (fld w 7 5) (fld w 12 5)) else
  if fld w 17 15 = 544#15 then some (.codemapRel (fld w 7 5) (fld w 12 5)) else
  if fld w 22 10 = 2#10 then some (.xlinv (fld w 7 5) (fld w 12 5) (fld w 17 5)) else
  if fld w 12 20 = 18432#20 then some (.xlinvVf (fld w 7 5)) else
  if fld w 12 20 = 34816#20 then some (.xlinvAll (fld w 7 5)) else
  if fld w 22 10 = 3#10 then some (.preempt (fld w 7 5) (fld w 12 5) (fld w 17 5)) else
  if fld w 12 20 = 19456#20 then some (.preemptWd (fld w 7 5)) else
  if fld w 17 15 = 128#15 then some (.pcrd (fld w 7 5) (fld w 12 5)) else
  if fld w 17 15 = 640#15 then some (.pcrdCtl (fld w 7 5) (fld w 12 5)) else
  if fld w 22 10 = 5#10 ∧ fld w 0 12 = 97#12 then some (.pcset (fld w 12 5) (fld w 17 5)) else
  if fld w 22 10 = 21#10 ∧ fld w 0 12 = 97#12 then some (.pcsetVal (fld w 12 5) (fld w 17 5)) else
  none

/-- A 32-bit word by its major opcode, before the checks of R41. -/
def rawDecodeWord (w : BitVec 32) : Option Instr :=
  match (fld w 0 7).toNat with
  | 1 => decMaj00 w
  | 3 => decMaj01 w
  | 5 => decMaj02 w
  | 7 => decMaj03 w
  | 9 => decMaj04 w
  | 11 => decMaj05 w
  | 13 => decMaj06 w
  | 15 => decMaj07 w
  | 17 => decMaj08 w
  | 19 => decMaj09 w
  | 21 => decMaj0a w
  | 23 => decMaj0b w
  | 25 => decMaj0c w
  | 27 => decMaj0d w
  | 29 => decMaj0e w
  | 31 => decMaj0f w
  | 33 => decMaj10 w
  | 35 => decMaj11 w
  | 37 => decMaj12 w
  | 39 => decMaj13 w
  | 41 => decMaj14 w
  | 43 => decMaj15 w
  | 45 => decMaj16 w
  | 47 => decMaj17 w
  | 49 => decMaj18 w
  | 51 => decMaj19 w
  | 53 => decMaj1a w
  | 55 => decMaj1b w
  | 57 => decMaj1c w
  | 59 => decMaj1d w
  | 61 => decMaj1e w
  | 63 => decMaj1f w
  | 65 => decMaj20 w
  | 67 => decMaj21 w
  | 69 => decMaj22 w
  | 71 => decMaj23 w
  | 73 => decMaj24 w
  | 75 => decMaj25 w
  | 77 => decMaj26 w
  | 79 => decMaj27 w
  | 81 => decMaj28 w
  | 83 => decMaj29 w
  | 85 => decMaj2a w
  | 87 => decMaj2b w
  | 89 => decMaj2c w
  | 91 => decMaj2d w
  | 93 => decMaj2e w
  | 95 => decMaj2f w
  | 97 => decMaj30 w
  | _ => none

/-- A 16-bit parcel by op4 (R46), before the checks of R41. -/
def rawDecodeParcel (h : BitVec 16) : Option Instr :=
  match (pfld h 0 5).toNat with
  | 0 => if pfld h 5 11 = 0#11 then some (.nop) else none
  | 2 => if pfld h 15 1 = 0#1 then some (.mov (pfld h 5 5) (pfld h 10 5)) else none
  | 4 => some (.addiS (pfld h 5 5) (pfld h 10 6))
  | 6 => some (.bz (pfld h 5 5) (pfld h 10 6))
  | 8 => some (.bnz (pfld h 5 5) (pfld h 10 6))
  | 10 => some (.jS (pfld h 5 11))
  | 12 => if pfld h 5 11 = 0#11 then some (.ret) else none
  | 14 => if pfld h 5 11 = 0#11 then some (.sleep) else none
  | 16 => if pfld h 5 11 = 0#11 then some (.yield) else none
  | 18 => if pfld h 5 11 = 0#11 then some (.once) else none
  | 20 => if pfld h 5 5 = 0#5 then some (.pool (pfld h 10 6)) else none
  | 22 => if pfld h 15 1 = 0#1 then some (.lddS (pfld h 5 5) (pfld h 10 5)) else none
  | 24 => if pfld h 15 1 = 0#1 then some (.stdS (pfld h 5 5) (pfld h 10 5)) else none
  | 26 => some (.shliS (pfld h 5 5) (pfld h 10 6))
  | 28 => if pfld h 5 11 = 0#11 then some (.endThread) else none
  | _ => none

/-- A 32-bit instruction, or none where R41 refuses the encoding. -/
def decodeWord (w : BitVec 32) : Option Instr := (rawDecodeWord w).filter Instr.wf
/-- A 16-bit instruction, or none where R41 refuses the encoding. -/
def decodeParcel (h : BitVec 16) : Option Instr := (rawDecodeParcel h).filter Instr.wf

/-- Why bytes are no instruction. -/
inductive Reject
  | noParcel        -- fewer than two bytes
  | noSecondHalf    -- a 32-bit instruction whose second parcel is missing (R37)
  | reservedParcel  -- a parcel R41 or R46 refuses
  | reservedWord    -- a word R41-R45 refuses
  deriving DecidableEq, Repr

/-- Two bytes, the lower address first, as a parcel (R4, R37). -/
def parcelOf (lo hi : Byte) : BitVec 16 := hi ++ lo

/-- The instruction at the head of a byte stream and its size in bytes (R37, R41). -/
def decode : List Byte → Except Reject (Instr × Nat)
  | b0 :: b1 :: rest =>
    if b0.getLsbD 0 then
      match rest with
      | b2 :: b3 :: _ =>
        match decodeWord (parcelOf b2 b3 ++ parcelOf b0 b1) with
        | some i => .ok (i, 4)
        | none => .error .reservedWord
      | _ => .error .noSecondHalf
    else
      match decodeParcel (parcelOf b0 b1) with
      | some i => .ok (i, 2)
      | none => .error .reservedParcel
  | _ => .error .noParcel

/-- The n low bytes of a number, the least significant first (R4). -/
def natBytes : Nat → Nat → List Byte
  | 0, _ => []
  | n + 1, x => BitVec.ofNat 8 x :: natBytes n (x / 256)

/-- The bytes of an instruction whose bits, numbered as the opcode table numbers them, are w: no instruction is
longer than four bytes (R37), and bits above nbits are zero. -/
def tableBytes (nbits w : Nat) : List Byte := natBytes 4 (w % 2 ^ nbits)

/-- What the decoder reads from the instruction whose table bits are w. -/
def decodeTableWord (nbits w : Nat) : Option Instr :=
  match decode (tableBytes nbits w) with
  | .ok (i, _) => some i
  | .error _ => none

/-- The word of a 32-bit instruction (R39-R45); none for the others. -/
def encodeWord : Instr → Option (BitVec 32)
  | .add d a b => some (0#10 ++ (b ++ (a ++ (d ++ 1#7))))
  | .sub d a b => some (1#10 ++ (b ++ (a ++ (d ++ 1#7))))
  | .and d a b => some (2#10 ++ (b ++ (a ++ (d ++ 1#7))))
  | .or d a b => some (3#10 ++ (b ++ (a ++ (d ++ 1#7))))
  | .xor d a b => some (4#10 ++ (b ++ (a ++ (d ++ 1#7))))
  | .shl d a b => some (5#10 ++ (b ++ (a ++ (d ++ 1#7))))
  | .shr d a b => some (6#10 ++ (b ++ (a ++ (d ++ 1#7))))
  | .sra d a b => some (7#10 ++ (b ++ (a ++ (d ++ 1#7))))
  | .rot d a b => some (8#10 ++ (b ++ (a ++ (d ++ 1#7))))
  | .min d a b => some (9#10 ++ (b ++ (a ++ (d ++ 1#7))))
  | .max d a b => some (10#10 ++ (b ++ (a ++ (d ++ 1#7))))
  | .minu d a b => some (11#10 ++ (b ++ (a ++ (d ++ 1#7))))
  | .maxu d a b => some (12#10 ++ (b ++ (a ++ (d ++ 1#7))))
  | .sel d a b => some (13#10 ++ (b ++ (a ++ (d ++ 1#7))))
  | .slt d a b => some (14#10 ++ (b ++ (a ++ (d ++ 1#7))))
  | .sltu d a b => some (15#10 ++ (b ++ (a ++ (d ++ 1#7))))
  | .mul d a b => some (0#10 ++ (b ++ (a ++ (d ++ 3#7))))
  | .mulh d a b => some (1#10 ++ (b ++ (a ++ (d ++ 3#7))))
  | .mulhu d a b => some (2#10 ++ (b ++ (a ++ (d ++ 3#7))))
  | .div d a b => some (3#10 ++ (b ++ (a ++ (d ++ 3#7))))
  | .divu d a b => some (4#10 ++ (b ++ (a ++ (d ++ 3#7))))
  | .rem d a b => some (5#10 ++ (b ++ (a ++ (d ++ 3#7))))
  | .remu d a b => some (6#10 ++ (b ++ (a ++ (d ++ 3#7))))
  | .clz d a => some (224#15 ++ (a ++ (d ++ 3#7)))
  | .ctz d a => some (256#15 ++ (a ++ (d ++ 3#7)))
  | .popc d a => some (288#15 ++ (a ++ (d ++ 3#7)))
  | .sext s d a => some (0#4 ++ (s.bits ++ (320#9 ++ (a ++ (d ++ 3#7)))))
  | .zext s d a => some (0#4 ++ (s.bits ++ (352#9 ++ (a ++ (d ++ 3#7)))))
  | .seq d a b => some (12#10 ++ (b ++ (a ++ (d ++ 3#7))))
  | .sne d a b => some (13#10 ++ (b ++ (a ++ (d ++ 3#7))))
  | .brev d a => some (448#15 ++ (a ++ (d ++ 3#7)))
  | .addi d a imm => some (imm ++ (a ++ (d ++ 5#7)))
  | .andi d a imm => some (imm ++ (a ++ (d ++ 7#7)))
  | .ori d a imm => some (imm ++ (a ++ (d ++ 9#7)))
  | .xori d a imm => some (imm ++ (a ++ (d ++ 11#7)))
  | .shli d a n => some (0#9 ++ (n ++ (a ++ (d ++ 13#7))))
  | .shri d a n => some (128#9 ++ (n ++ (a ++ (d ++ 13#7))))
  | .srai d a n => some (256#9 ++ (n ++ (a ++ (d ++ 13#7))))
  | .slti d a imm => some (imm ++ (a ++ (d ++ 15#7)))
  | .movi d imm => some (imm ++ (0#5 ++ (d ++ 17#7)))
  | .lis d imm => some (imm ++ (0#5 ++ (d ++ 19#7)))
  | .fadd p rm d a b => some (0#2 ++ (rm.bits ++ (p.bits ++ (0#4 ++ (b ++ (a ++ (d ++ 21#7)))))))
  | .fsub p rm d a b => some (0#2 ++ (rm.bits ++ (p.bits ++ (1#4 ++ (b ++ (a ++ (d ++ 21#7)))))))
  | .fmul p rm d a b => some (0#2 ++ (rm.bits ++ (p.bits ++ (2#4 ++ (b ++ (a ++ (d ++ 21#7)))))))
  | .fdiv p rm d a b => some (0#2 ++ (rm.bits ++ (p.bits ++ (3#4 ++ (b ++ (a ++ (d ++ 21#7)))))))
  | .fsqrt p rm d a => some (0#2 ++ (rm.bits ++ (p.bits ++ (128#9 ++ (a ++ (d ++ 21#7))))))
  | .fmin p d a b => some (0#5 ++ (p.bits ++ (5#4 ++ (b ++ (a ++ (d ++ 21#7))))))
  | .fmax p d a b => some (0#5 ++ (p.bits ++ (6#4 ++ (b ++ (a ++ (d ++ 21#7))))))
  | .ffma p rm d a b => some (0#2 ++ (rm.bits ++ (p.bits ++ (7#4 ++ (b ++ (a ++ (d ++ 21#7)))))))
  | .fcvt k p rm d a => some (k.bits ++ (rm.bits ++ (p.bits ++ (256#9 ++ (a ++ (d ++ 21#7))))))
  | .fclass p d a => some (0#5 ++ (p.bits ++ (288#9 ++ (a ++ (d ++ 21#7)))))
  | .feq p d a b => some (0#5 ++ (p.bits ++ (10#4 ++ (b ++ (a ++ (d ++ 21#7))))))
  | .flt p d a b => some (0#5 ++ (p.bits ++ (11#4 ++ (b ++ (a ++ (d ++ 21#7))))))
  | .fle p d a b => some (0#5 ++ (p.bits ++ (12#4 ++ (b ++ (a ++ (d ++ 21#7))))))
  | .beq a b off => some (off ++ (b ++ (a ++ 23#7)))
  | .bne a b off => some (off ++ (b ++ (a ++ 25#7)))
  | .blt a b off => some (off ++ (b ++ (a ++ 27#7)))
  | .bge a b off => some (off ++ (b ++ (a ++ 29#7)))
  | .bltu a b off => some (off ++ (b ++ (a ++ 31#7)))
  | .bgeu a b off => some (off ++ (b ++ (a ++ 33#7)))
  | .j off => some (off ++ 35#7)
  | .jal off => some (off ++ 37#7)
  | .jr a => some (0#15 ++ (a ++ 39#12))
  | .jalr d a => some (32#15 ++ (a ++ (d ++ 39#7)))
  | .sete f n a => some (0#5 ++ (f.bits ++ (0#9 ++ (a ++ (n ++ 41#7)))))
  | .gete f d n => some (0#5 ++ (f.bits ++ (32#9 ++ (n ++ (d ++ 41#7)))))
  | .rdts d => some (2048#20 ++ (d ++ 41#7))
  | .rdid ix d => some (ix.bits ++ (3072#14 ++ (d ++ 41#7)))
  | .poolw n => some (4#10 ++ (n ++ 41#7))
  | .yieldG => some (20971561#32)
  | .ld s o c d a off => some (off ++ (c.bits ++ (o.bits ++ (s.bits ++ (a ++ (d ++ 43#7))))))
  | .lds s o c d a off => some (off ++ (c.bits ++ (o.bits ++ (s.bits ++ (a ++ (d ++ 45#7))))))
  | .st s o c d a off => some (off ++ (c.bits ++ (o.bits ++ (s.bits ++ (a ++ (d ++ 47#7))))))
  | .ldfe o c d a off => some (off ++ (c.bits ++ (o.bits ++ (3#2 ++ (a ++ (d ++ 49#7))))))
  | .ldf o c d a off => some (off ++ (c.bits ++ (o.bits ++ (3#2 ++ (a ++ (d ++ 51#7))))))
  | .stef o c d a off => some (off ++ (c.bits ++ (o.bits ++ (3#2 ++ (a ++ (d ++ 53#7))))))
  | .stf o c d a off => some (off ++ (c.bits ++ (o.bits ++ (3#2 ++ (a ++ (d ++ 55#7))))))
  | .fence k c => some (0#1 ++ (c.bits ++ (k.bits ++ 57#26)))
  | .feget d => some (1024#20 ++ (d ++ 57#7))
  | .feset a => some (64#15 ++ (a ++ 57#12))
  | .pref l2 own a => some (0#4 ++ (ofBit l2 ++ (ofBit own ++ (96#9 ++ (a ++ 57#12)))))
  | .flush out inv a => some (0#4 ++ (ofBit out ++ (ofBit inv ++ (128#9 ++ (a ++ 57#12)))))
  | .gjoin d a => some (160#15 ++ (a ++ (d ++ 57#7)))
  | .gleave d a => some (192#15 ++ (a ++ (d ++ 57#7)))
  | .gload d a b => some (7#10 ++ (b ++ (a ++ (d ++ 57#7))))
  | .amoAdd dbl o c d a b => some (ofBit dbl ++ (c.bits ++ (o.bits ++ (0#4 ++ (b ++ (a ++ (d ++ 59#7)))))))
  | .amoAnd dbl o c d a b => some (ofBit dbl ++ (c.bits ++ (o.bits ++ (1#4 ++ (b ++ (a ++ (d ++ 59#7)))))))
  | .amoOr dbl o c d a b => some (ofBit dbl ++ (c.bits ++ (o.bits ++ (2#4 ++ (b ++ (a ++ (d ++ 59#7)))))))
  | .amoXor dbl o c d a b => some (ofBit dbl ++ (c.bits ++ (o.bits ++ (3#4 ++ (b ++ (a ++ (d ++ 59#7)))))))
  | .amoMin dbl o c d a b => some (ofBit dbl ++ (c.bits ++ (o.bits ++ (4#4 ++ (b ++ (a ++ (d ++ 59#7)))))))
  | .amoMax dbl o c d a b => some (ofBit dbl ++ (c.bits ++ (o.bits ++ (5#4 ++ (b ++ (a ++ (d ++ 59#7)))))))
  | .amoMinu dbl o c d a b => some (ofBit dbl ++ (c.bits ++ (o.bits ++ (6#4 ++ (b ++ (a ++ (d ++ 59#7)))))))
  | .amoMaxu dbl o c d a b => some (ofBit dbl ++ (c.bits ++ (o.bits ++ (7#4 ++ (b ++ (a ++ (d ++ 59#7)))))))
  | .amoSwap dbl o c d a b => some (ofBit dbl ++ (c.bits ++ (o.bits ++ (8#4 ++ (b ++ (a ++ (d ++ 59#7)))))))
  | .amoFadd dbl o c d a b => some (ofBit dbl ++ (c.bits ++ (o.bits ++ (9#4 ++ (b ++ (a ++ (d ++ 59#7)))))))
  | .cas dbl o c d a b => some (ofBit dbl ++ (c.bits ++ (o.bits ++ (0#4 ++ (b ++ (a ++ (d ++ 61#7)))))))
  | .vadd t d a b => some (0#8 ++ (t.bits ++ (b ++ (a ++ (d ++ 63#7)))))
  | .vsub t d a b => some (8#8 ++ (t.bits ++ (b ++ (a ++ (d ++ 63#7)))))
  | .vmul t d a b => some (16#8 ++ (t.bits ++ (b ++ (a ++ (d ++ 63#7)))))
  | .vdiv t d a b => some (24#8 ++ (t.bits ++ (b ++ (a ++ (d ++ 63#7)))))
  | .vmin t d a b => some (32#8 ++ (t.bits ++ (b ++ (a ++ (d ++ 63#7)))))
  | .vmax t d a b => some (40#8 ++ (t.bits ++ (b ++ (a ++ (d ++ 63#7)))))
  | .vabs t d a => some (48#8 ++ (t.bits ++ (0#5 ++ (a ++ (d ++ 63#7)))))
  | .vneg t d a => some (56#8 ++ (t.bits ++ (0#5 ++ (a ++ (d ++ 63#7)))))
  | .vsqrt t d a => some (64#8 ++ (t.bits ++ (0#5 ++ (a ++ (d ++ 63#7)))))
  | .vrcp t d a => some (72#8 ++ (t.bits ++ (0#5 ++ (a ++ (d ++ 63#7)))))
  | .vrsq t d a => some (80#8 ++ (t.bits ++ (0#5 ++ (a ++ (d ++ 63#7)))))
  | .vexp2 t d a => some (88#8 ++ (t.bits ++ (0#5 ++ (a ++ (d ++ 63#7)))))
  | .vlog2 t d a => some (96#8 ++ (t.bits ++ (0#5 ++ (a ++ (d ++ 63#7)))))
  | .vaddI s d a b => some (0#8 ++ (s.bits ++ (b ++ (a ++ (d ++ 65#7)))))
  | .vsubI s d a b => some (8#8 ++ (s.bits ++ (b ++ (a ++ (d ++ 65#7)))))
  | .vmulI s d a b => some (16#8 ++ (s.bits ++ (b ++ (a ++ (d ++ 65#7)))))
  | .vminI s d a b => some (24#8 ++ (s.bits ++ (b ++ (a ++ (d ++ 65#7)))))
  | .vmaxI s d a b => some (32#8 ++ (s.bits ++ (b ++ (a ++ (d ++ 65#7)))))
  | .vminuI s d a b => some (40#8 ++ (s.bits ++ (b ++ (a ++ (d ++ 65#7)))))
  | .vmaxuI s d a b => some (48#8 ++ (s.bits ++ (b ++ (a ++ (d ++ 65#7)))))
  | .vshlI s d a b => some (56#8 ++ (s.bits ++ (b ++ (a ++ (d ++ 65#7)))))
  | .vshrI s d a b => some (64#8 ++ (s.bits ++ (b ++ (a ++ (d ++ 65#7)))))
  | .vsraI s d a b => some (72#8 ++ (s.bits ++ (b ++ (a ++ (d ++ 65#7)))))
  | .vandI s d a b => some (80#8 ++ (s.bits ++ (b ++ (a ++ (d ++ 65#7)))))
  | .vorI s d a b => some (88#8 ++ (s.bits ++ (b ++ (a ++ (d ++ 65#7)))))
  | .vxorI s d a b => some (96#8 ++ (s.bits ++ (b ++ (a ++ (d ++ 65#7)))))
  | .vfmaBcast h t lane d a b => some (h ++ (t.bits ++ (0#1 ++ (lane ++ (b ++ (a ++ (d ++ 67#7)))))))
  | .vfma h t d a b => some (h ++ (t.bits ++ (16#5 ++ (b ++ (a ++ (d ++ 67#7))))))
  | .vfms h t d a b => some (h ++ (t.bits ++ (17#5 ++ (b ++ (a ++ (d ++ 67#7))))))
  | .vfnma h t d a b => some (h ++ (t.bits ++ (18#5 ++ (b ++ (a ++ (d ++ 67#7))))))
  | .vcmp c m a b => some (0#2 ++ (c.bits ++ (m ++ (b ++ (a ++ 69#12)))))
  | .vsel m d a b => some (8#5 ++ (m ++ (b ++ (a ++ (d ++ 69#7)))))
  | .vtest q m d a b => some (4#3 ++ (q.bits ++ (m ++ (b ++ (a ++ (d ++ 69#7))))))
  | .vcvt c d a b => some (0#5 ++ (c.bits ++ (b ++ (a ++ (d ++ 71#7)))))
  | .vpack c d a b => some (1#5 ++ ((0#1 ++ c.bits) ++ (b ++ (a ++ (d ++ 71#7)))))
  | .vunpk c hi d a => some (2#5 ++ (ofBit hi ++ (c.bits ++ (0#5 ++ (a ++ (d ++ 71#7))))))
  | .vscale t d a b => some (24#8 ++ (t.bits ++ (b ++ (a ++ (d ++ 71#7)))))
  | .vperm dbl d a b => some (0#9 ++ (ofBit dbl ++ (b ++ (a ++ (d ++ 73#7)))))
  | .vbcast s d a => some (8#8 ++ (s.bits ++ (0#5 ++ (a ++ (d ++ 73#7)))))
  | .vred o d a => some (2#5 ++ (o.bits ++ (0#5 ++ (a ++ (d ++ 73#7)))))
  | .vmovg ix d a => some (3#5 ++ (ix ++ (0#5 ++ (a ++ (d ++ 73#7)))))
  | .vmovv d a => some (4096#15 ++ (a ++ (d ++ 73#7)))
  | .vlane ix d a => some (5#5 ++ (ix ++ (0#5 ++ (a ++ (d ++ 73#7)))))
  | .vld o c d a off => some (off ++ (c.bits ++ (o.bits ++ (0#2 ++ (a ++ (d ++ 75#7))))))
  | .vst o c d a off => some (off ++ (c.bits ++ (o.bits ++ (1#2 ++ (a ++ (d ++ 75#7))))))
  | .vlds s d a b => some (0#8 ++ (s.bits ++ (b ++ (a ++ (d ++ 77#7)))))
  | .vsts s d a b => some (8#8 ++ (s.bits ++ (b ++ (a ++ (d ++ 77#7)))))
  | .vgath dbl d a b => some (1#9 ++ (ofBit dbl ++ (b ++ (a ++ (d ++ 79#7)))))
  | .vscat dbl d a b => some (17#9 ++ (ofBit dbl ++ (b ++ (a ++ (d ++ 79#7)))))
  | .vstm n1 d a => some (0#5 ++ (n1 ++ (0#5 ++ (a ++ (d ++ 81#7)))))
  | .vldm n1 d a => some (1#5 ++ (n1 ++ (0#5 ++ (a ++ (d ++ 81#7)))))
  | .xclr rel a b => some (ofBit rel ++ (0#9 ++ (b ++ (a ++ 83#12))))
  | .xadd rel f a b => some (ofBit rel ++ (0#3 ++ (f.bits ++ (1#4 ++ (b ++ (a ++ 83#12))))))
  | .xmadd rel vec a b c => some (ofBit rel ++ (0#3 ++ (ofBit vec ++ (2#5 ++ (b ++ (a ++ (c ++ 83#7)))))))
  | .xrnd acq p rm d a => some (0#1 ++ (ofBit acq ++ (rm.bits ++ (p.bits ++ (96#9 ++ (a ++ (d ++ 83#7)))))))
  | .xmerge rel a b => some (ofBit rel ++ (4#9 ++ (b ++ (a ++ 83#12))))
  | .mma x d t => some (x.bits ++ (0#6 ++ (t ++ (0#5 ++ (d ++ 85#7)))))
  | .mmag x d t => some (x.bits ++ (4#6 ++ (t ++ (0#5 ++ (d ++ 85#7)))))
  | .mzero x d t => some (x.bits ++ (8#6 ++ (t ++ (0#5 ++ (d ++ 85#7)))))
  | .mload x d t => some (x.bits ++ (12#6 ++ (t ++ (0#5 ++ (d ++ 85#7)))))
  | .mdrain x d t => some (x.bits ++ (16#6 ++ (t ++ (0#5 ++ (d ++ 85#7)))))
  | .mdres d t => some (20#12 ++ (t ++ (0#5 ++ (d ++ 85#7))))
  | .accrd d t a => some (24#12 ++ (t ++ (a ++ (d ++ 85#7))))
  | .mstat d t => some (28#12 ++ (t ++ (0#5 ++ (d ++ 85#7))))
  | .dpload x d a b => some (x.bits ++ (8#4 ++ (b ++ (a ++ (d ++ 85#7)))))
  | .cpy x d => some (x.bits ++ (0#14 ++ (d ++ 87#7)))
  | .cpys x d => some (x.bits ++ (1024#14 ++ (d ++ 87#7)))
  | .cpyg x d => some (x.bits ++ (2048#14 ++ (d ++ 87#7)))
  | .fill x d => some (x.bits ++ (3072#14 ++ (d ++ 87#7)))
  | .gate d a b => some (4#10 ++ (b ++ (a ++ (d ++ 87#7))))
  | .watch d a => some (0#15 ++ (a ++ (d ++ 89#7)))
  | .unwatch d a => some (32#15 ++ (a ++ (d ++ 89#7)))
  | .unwatchAll d => some (17408#20 ++ (d ++ 89#7))
  | .spawn d a => some (64#15 ++ (a ++ (d ++ 89#7)))
  | .migrate a => some (96#15 ++ (a ++ 89#12))
  | .wake d a => some (128#15 ++ (a ++ (d ++ 89#7)))
  | .sleepT a => some (160#15 ++ (a ++ 89#12))
  | .send d a => some (0#15 ++ (a ++ (d ++ 91#7)))
  | .sendn d a => some (32#15 ++ (a ++ (d ++ 91#7)))
  | .recv d a => some (64#15 ++ (a ++ (d ++ 91#7)))
  | .recvn d => some (3072#20 ++ (d ++ 91#7))
  | .tstop d a => some (0#15 ++ (a ++ (d ++ 93#7)))
  | .tstart d a => some (32#15 ++ (a ++ (d ++ 93#7)))
  | .tread d a b => some (2#10 ++ (b ++ (a ++ (d ++ 93#7))))
  | .treadTab d a b => some (18#10 ++ (b ++ (a ++ (d ++ 93#7))))
  | .treadLog d a b => some (34#10 ++ (b ++ (a ++ (d ++ 93#7))))
  | .twrite mask d a b => some (0#1 ++ (mask ++ (3#4 ++ (b ++ (a ++ (d ++ 93#7))))))
  | .twriteTab d a b => some (515#10 ++ (b ++ (a ++ (d ++ 93#7))))
  | .treap d a => some (128#15 ++ (a ++ (d ++ 93#7)))
  | .tstat d a => some (160#15 ++ (a ++ (d ++ 93#7)))
  | .nest d a => some (0#15 ++ (a ++ (d ++ 95#7)))
  | .iter d a => some (32#15 ++ (a ++ (d ++ 95#7)))
  | .iterStep => some (71303263#32)
  | .svc d a b => some (0#10 ++ (b ++ (a ++ (d ++ 97#7))))
  | .codemap d a => some (32#15 ++ (a ++ (d ++ 97#7)))
  | .codemapRel d a => some (544#15 ++ (a ++ (d ++ 97#7)))
  | .xlinv d a b => some (2#10 ++ (b ++ (a ++ (d ++ 97#7))))
  | .xlinvVf d => some (18432#20 ++ (d ++ 97#7))
  | .xlinvAll d => some (34816#20 ++ (d ++ 97#7))
  | .preempt d a b => some (3#10 ++ (b ++ (a ++ (d ++ 97#7))))
  | .preemptWd d => some (19456#20 ++ (d ++ 97#7))
  | .pcrd d a => some (128#15 ++ (a ++ (d ++ 97#7)))
  | .pcrdCtl d a => some (640#15 ++ (a ++ (d ++ 97#7)))
  | .pcset a b => some (5#10 ++ (b ++ (a ++ 97#12)))
  | .pcsetVal a b => some (21#10 ++ (b ++ (a ++ 97#12)))
  | _ => none

/-- The parcel of a 16-bit instruction (R46); none for the others. -/
def encodeParcel : Instr → Option (BitVec 16)
  | .nop => some (0#16)
  | .mov d s => some (0#1 ++ (s ++ (d ++ 2#5)))
  | .addiS d imm => some (imm ++ (d ++ 4#5))
  | .bz d off => some (off ++ (d ++ 6#5))
  | .bnz d off => some (off ++ (d ++ 8#5))
  | .jS off => some (off ++ 10#5)
  | .ret => some (12#16)
  | .sleep => some (14#16)
  | .yield => some (16#16)
  | .once => some (18#16)
  | .pool n => some (n ++ 20#10)
  | .lddS d b => some (0#1 ++ (b ++ (d ++ 22#5)))
  | .stdS d b => some (0#1 ++ (b ++ (d ++ 24#5)))
  | .shliS d n => some (n ++ (d ++ 26#5))
  | .endThread => some (28#16)
  | _ => none

/-- The bytes of an instruction as the stream holds them, the lowest address first; a device event has none. -/
def encode (i : Instr) : List Byte :=
  match encodeWord i, encodeParcel i with
  | some w, _ => natBytes 4 w.toNat
  | none, some h => natBytes 2 h.toNat
  | none, none => []

/-- The size of an encoded instruction in bytes (R37). -/
def Instr.size (i : Instr) : Nat := (encode i).length

end Sys2Proof
end

