-- ==== Sys2Proof/Machine/State.lean ====
section
/-! DEFINITION. The state of the whole package as plain data: memories, contexts, records, engines, queues, caches,
tables, links and registers, as INVENTORY.md lists them. Finite maps are lists of key and value pairs (FMap) whose
absent keys read as a default. -/

namespace Sys2Proof.Machine

/-- A finite map from numbers, as key and value pairs; an absent key reads as the default its reader gives. -/
abbrev FMap (β : Type) := List (Nat × β)

/-- Memory with its sidebands. Keys: device memory `b * 2^34 + o` for bulkhead b (R144); tarns
`2^48 + (8 b + cluster) * 2^22 + o` (R145); host memory `2^64 + address`; remote packages from `2^66` (log 6). -/
structure Mem where
  /-- bytes; an unlisted byte reads 0 (log 3), or in an undefined range its free value (log 11) -/
  cells : List Host.Cell
  /-- ranges whose contents the spec leaves undefined (R50, R289, R344), newest first: first key, key past the end, and the
  position of their free bytes in the supply -/
  undef : List (Nat × Nat × Nat)
  /-- 64-bit words (key / 8) whose full/empty bit is empty (R146) -/
  empties : FMap Bool
  /-- 64-bit words whose waiter bit is set (R167) -/
  waiters : FMap Bool
  /-- 64-byte blocks (key / 64) marked poisoned (R353) -/
  poison : FMap Bool
  deriving DecidableEq, Repr

/-- Where an address leads. -/
inductive Place
  /-- the partition's device memory, a tarn, or host memory, by key -/
  | mem (k : Nat)
  /-- the grain-map window at an offset (R147) -/
  | grain (off : Nat)
  /-- device memory of another partition through its windows (R341) -/
  | window (exp dpa : Nat)
  /-- an outbound remote window (R357): entry and remote DPA -/
  | remote (w dpa : Nat)
  deriving DecidableEq, Repr

/-- Thread states (R14). -/
inductive TState | free | ready | bound | sleeping | stopped | spilled | retired deriving DecidableEq, Repr

/-- The registers of a context (R61, R115, R174). -/
structure Regs where
  g : FMap Word
  v : FMap Vec
  e : FMap Word
  i : FMap Word
  la : Vec
  lb : Vec
  lc : Vec
  env : Word
  q : Byte
  deriving DecidableEq, Repr

/-- A continuation record (R11, R12) with what the home core keeps beside it. -/
structure Rec where
  tid : W32
  state : TState
  roam : Bool
  /-- ROAM as it stood when the record last joined a queue (R311) -/
  roamQ : Bool
  prio : BitVec 2
  pc : Word
  table : BitVec 10
  save : Bool
  spillKind : BitVec 2
  faulted : Bool
  sendwait : Bool
  deep : Bool
  launch : Bool
  autoreap : Bool
  pending : BitVec 4
  faultLine : Word
  inbox : Word
  g1 : Word
  g2 : Word
  g3 : Word
  g4 : Word
  /-- VF tag (R282) -/
  vf : Nat
  /-- the partition it runs in -/
  part : Nat
  /-- effective level and the TS at which it reached it (R250) -/
  level : Nat
  since : Nat
  /-- SLEEP.T's deadline (R261) -/
  deadline : Option Nat
  /-- bits 4, 5, 6 of the next wake mask (R262) -/
  wokeDeadline : Bool
  wokeWake : Bool
  wokeCoarse : Bool
  /-- the next bind delivers a wake mask (R262) -/
  deliver : Bool
  /-- status an instruction writes after the resume registers are set (R18): register and value -/
  result : Option (Nat × Word)
  /-- cluster of a MIGRATE, for one binding (R267) -/
  migrate : Option Nat
  /-- the launch it counts toward (R29) -/
  launchId : Option Nat
  /-- thread coordinate t of its launch (R115) -/
  coord : Nat
  /-- streamer weight (R24, R234) -/
  weight : Nat
  /-- registers TSTART read from the stop block (R309) -/
  image : Option Regs
  /-- core key and context where it is bound (R314) -/
  place : Option (Nat × Nat)
  /-- its context is saved with its VF (R20, R289) -/
  saved : Bool
  /-- scope of its FENCE.rel or FENCE.sc, while the thread holds no context (R191) -/
  fence : Option Scope
  deriving DecidableEq, Repr

/-- Operations of long-latency producers (R63) that may be performed again after a page request (R160). -/
inductive ProdOp
  | load (addr : Word) (n : Nat) (sext : Bool)
  | vload (addrs : List Word) (n : Nat)
  | vblocks (addr : Word) (count : Nat)
  | amo (op : AmoOp) (dbl : Bool) (addr y : Word)
  | cas (dbl : Bool) (addr expect new : Word)
  /-- RECV, TREAD, ACCRD: performed when they issued -/
  | done_
  deriving DecidableEq, Repr

/-- Destination of a producer: a g register, `count` v registers from n, or the 64-bit word of a once post. -/
inductive Dest | g (n : Nat) | v (n count : Nat) deriving DecidableEq, Repr

/-- An answer to a request over a link. -/
inductive Answer
  /-- the bytes from the operation's base on (R350, R358) -/
  | data (bs : List Byte)
  /-- the proxy home owns the line (R150, R173) -/
  | owned
  /-- poisoned or timed out (R353) -/
  | poison
  /-- an error response: 0x34 for an AtomicOp (R173), 0x35 for a link without CXL.cache (R173), 0x16 for a remote access
  (R341, log 31) -/
  | error (code : Nat) (detail : Nat)
  deriving DecidableEq, Repr

/-- An element of a read that waits for a link: read on the device when it issued, with its poison, or to come in the answer for its
line, by key. -/
inductive LinkElem | here (bs : List Byte) (bad : Bool) | far (key : Nat) deriving DecidableEq, Repr

/-- What a producer holds: its value, a page request, requests over links, or a fault. `link`: the operations it still waits
for, the answers that have come, by their base, and its elements. -/
inductive ProdState
  | valueG (w : Word)
  | valueV (vs : List Vec)
  | held (page : Option Nat)
  | link (ids : List Nat) (got : List (Nat × Answer)) (els : List LinkElem)
  | fault (code : Nat) (addr detail : Word)
  deriving DecidableEq, Repr

/-- A long-latency producer in flight for a context (R63). -/
structure Producer where
  pc : Word
  /-- instructions the context had retired when this one did, for LATE (R318) -/
  seq : Nat
  dest : Dest
  op : ProdOp
  st : ProdState
  /-- the ONCE count under which its result is posted (R116) -/
  post : Option Byte
  /-- the stamp of an SC operation (R193) -/
  sc : Option (Nat × Nat × Nat)
  deriving DecidableEq, Repr

/-- A ONCE post (R116). -/
structure Post where
  reg : Nat
  vec : Bool
  value : Vec
  q : Byte
  /-- the context that sent it, while its thread is there (R117) -/
  src : Option (Nat × Nat)
  deriving DecidableEq, Repr

/-- Why a context is not ready beyond what its next instruction needs (R254). -/
inductive Wait
  | none_
  | parked (word : Nat)
  /-- 64 attempts have failed: the park request is on its way (R169) -/
  | parkReq
  | xlat
  | oncePost
  | yieldG
  | g31
  | scWindow (w n q : Nat)
  | answer
  | grain
  /-- an ACCRD got a retry (R216) -/
  | tile (t : Nat)
  /-- an XLINV waits for the link operations with ids below a bound: what was translated before it (R336) -/
  | drain (bound : Nat)
  /-- its request is in a home queue (R151) -/
  | homeQ
  /-- a TSTOP waits for its target's SEND or grain change to end (R16, R308) -/
  | target (core ctx : Nat)
  deriving DecidableEq, Repr

/-- A suspension point that waits for its producers (R19). -/
inductive Susp
  | sleep (deadline : Option Nat)
  | endT
  | migrate (target : Nat)
  | yield
  | svc (dest n : Nat)
  | send (dest : Nat)
  deriving DecidableEq, Repr

/-- A stop that waits for its producers (R65, R308): the fault, or a TSTOP and the waiting caller. -/
structure Stop where
  code : Option Nat
  pc : Word
  /-- the PC the record keeps: that of the oldest abandoned instruction, if any (R65) -/
  resume : Word
  addr : Word
  detail : Word
  late : Bool
  /-- program order of the instruction `pc` and of `resume` names (R318) -/
  seq : Nat
  rseq : Nat
  /-- TSTOPs that wait for it: core, context and destination of each (R308) -/
  callers : List (Nat × Nat × Nat)
  deriving DecidableEq, Repr

/-- A message (R268), its sender and target, and where it stands. -/
structure Msg where
  sender : W32
  target : W32
  pc : Word
  body : Vec
  deriving DecidableEq, Repr

/-- A send-buffer entry (R270). -/
structure SendEntry where
  posted : Bool
  msg : Msg
  dest : Nat
  first : Option Nat
  tries : Nat
  vf : Nat
  /-- the sender's fault line and inbox at the send, for a bounce after its END (R266, R273) -/
  faultLine : Word
  inbox : Word
  /-- a thread of a deep core sent it (R286) -/
  deep : Bool
  /-- the message of a SENDN that waits for its thread's oldest posted entry to leave: it holds no place yet (R273) -/
  extra : Bool
  /-- its last delivery is over, with this bounce reason, 1 for a full inbox: the record of it waits for its line (R271, R273) -/
  ended : Option Nat
  deriving DecidableEq, Repr

/-- An issue context (R61, R254). -/
structure Ctx where
  bound : Bool
  tid : W32
  pc : Word
  regs : Regs
  /-- 1: the register is empty (R63) -/
  gEmpty : BitVec 32
  vEmpty : BitVec 32
  posts : List Post
  wait : Wait
  /-- the ONCE prefix has run and elected this context: the next instruction is posted under this count -/
  onceQ : Option Byte
  /-- core cycle before which it may not issue (R99, R121), and the cycle of its last issue (R254) -/
  readyAt : Nat
  last : Option Nat
  /-- on a deep core: a g register that DIV, FDIV or FSQRT wrote, and the deep cycle before which no instruction may read it
  (R99) -/
  results : List (Nat × Nat)
  inflight : List Producer
  retired : Nat
  feTries : Nat
  susp : Option Susp
  stop : Option Stop
  /-- the page whose PAGE_WAIT notice the held instruction has written -/
  noticed : Option Nat
  /-- an SC operation's window has closed: the operation may be performed (R193) -/
  scOpen : Bool
  /-- the stamp of the SC operation whose window has closed and which is not performed yet (R193) -/
  scAt : Option (Nat × Nat × Nat)
  /-- a SEND's message on its way, and its answer (R271) -/
  msg : Option (Msg × Nat)
  answer : Option Word
  /-- TS of the delivery that the answer is for (R270) -/
  answeredAt : Nat
  /-- its instruction has begun and waits: the check of its right is past (R315), and a switch lets it complete (R287) -/
  begun : Bool
  /-- the scope of its FENCE.rel or FENCE.sc, no write having issued since: the first is a release there (R191) -/
  fence : Option Scope
  deriving DecidableEq, Repr

/-- An entry of the watch descriptor file (R256). -/
structure WatchDesc where
  tid : W32
  num : Nat
  line : Nat
  coarse : Bool
  home : Nat
  deriving DecidableEq, Repr

/-- A performance counter (R371). -/
structure PerfCtr where
  value : Word
  ctl : Word
  deriving DecidableEq, Repr

/-- L1 states (R150); absent units are I. -/
inductive L1State | m | o | e | s | i deriving DecidableEq, Repr

/-- A barrel core or deep core. -/
structure Core where
  ctxs : FMap Ctx
  /-- resident records by slot (R10) -/
  slots : FMap Rec
  nextGen : FMap Byte
  watches : List WatchDesc
  sendBuf : List SendEntry
  perf : FMap PerfCtr
  /-- the counters as they were before the core's present cycle (R373) -/
  perfWas : FMap PerfCtr
  /-- data L1: state of each unit (R149), by the unit's first memory key -/
  l1 : FMap L1State
  /-- instruction L1: 512-byte blocks held, by DPA block -/
  l1i : FMap Bool
  cycle : Nat
  /-- TS as the core sampled it in its latest core cycle (R285) -/
  sample : Nat
  rot : Nat
  /-- cycles a bank conflict still takes (R66) -/
  busy : Nat
  /-- SC operations of the current stillwater window (R193): window and count -/
  scWin : Nat
  scCount : Nat
  deriving DecidableEq, Repr

/-- The thread an engine command or gate acts for (R231). -/
structure Issuer where
  tid : W32
  pc : Word
  faultLine : Word
  vf : Nat
  part : Nat
  weight : Nat
  /-- unit key of the issuing cluster or deep core -/
  unit : Nat
  deriving DecidableEq, Repr

/-- Where a queued engine command stands: `written`, its completion write is made and not performed (R234); `faulted`, its fault
record waits for its line (R201). -/
inductive Phase | waiting | array | drainWait | drain | image | forwarding | arrived | complete | written | faulted deriving DecidableEq, Repr

/-- An engine command: funct of major 0x2a or 0x2b, engine flags, e0-e7 as read at issue, and for DPLOAD the source
address and slot (R202, R231). -/
structure ECmd where
  fn : Nat
  matrix : Bool
  tile : Nat
  fl : EFlags
  e : FMap Word
  src : Word
  slot : Nat
  issuer : Issuer
  phase : Phase
  /-- MMAG's index list as gathered (R210) -/
  index : List Nat
  /-- next piece of a copy (R239); next K chunk of an MMA or MMAG (R229) -/
  piece : Nat
  /-- the check that its routing byte failed (R233) -/
  refused : Option Nat
  /-- code, address and DETAIL of its fault while the record waits (R201, R227) -/
  fault : Option (Nat × Word × Word)
  deriving DecidableEq, Repr

/-- Fault state and drain cursor of a tile (R217). -/
structure TileStat where
  lock : Bool
  fault : Bool
  crow : Nat
  cblk : Nat
  prog : Nat
  deriving DecidableEq, Repr

/-- The drain the drain unit runs (R219, R220): its command, program and descriptor block as read, the parameter
vectors and coefficient tables as read, the next row, and the first block of that row. -/
structure DrainRun where
  cmd : ECmd
  prog : Vec
  desc : Vec
  params : List W32
  coefs : List W32
  row : Nat
  blk : Nat
  deriving DecidableEq, Repr

/-- A gate list entry (R231). -/
structure Gate where
  idx : Nat
  /-- tells apart the gate records of entries that used one number -/
  id : Nat
  fired : Option Nat
  counter : Nat
  cmd : ECmd
  deriving DecidableEq, Repr

/-- A cluster's engines, queues and lists; a deep core uses the outbound queue, gate list and FIFOs of one. -/
structure Clus where
  mq : List ECmd
  /-- element (row, col) of tile t at key 4096 t + 64 row + col (R61) -/
  tiles : FMap W32
  stat : FMap TileStat
  saved : FMap ECmd
  resumed : List ECmd
  run : Option DrainRun
  wellhead : FMap Vec
  whValid : FMap Bool
  outq : List ECmd
  /-- copies forwarded to this streamer and not yet arrived (R232) -/
  flying : List ECmd
  sq : List ECmd
  /-- requester whose turn it is and the pieces left in it (R234) -/
  turn : Option (Nat × Nat)
  gates : List Gate
  gateSeq : Nat
  /-- ready FIFOs by level: thread ids with the TS at which each joined, oldest first (R249) -/
  fifo : FMap (List (W32 × Nat))
  /-- launches counted here: launch id and threads not yet ended (R26, R29) -/
  launches : List (Nat × Nat)
  /-- ONCE posts in flight: core, context, post (R116) -/
  posts : List (Nat × Nat × Post)
  gated : Bool
  /-- TS since which it has held no bound context among contexts 1-15 (R406) -/
  idleAt : Nat
  deriving DecidableEq, Repr

/-- The fields of a fault record, notice or bounce (R316). -/
structure FaultRec where
  code : Nat
  engine : Bool
  notice : Bool
  saved : Bool
  late : Bool
  tid : W32
  pc : Word
  addr : Word
  detail : Word
  vf : Nat
  core : Nat
  deriving DecidableEq, Repr

/-- A record whose line waits for its translation (R317): the line, the record, the VF and partition it is written
for, the core whose summary line it sets (R320), and the id and source of the log entry if it is dropped. -/
structure PendRec where
  line : Word
  rc : FaultRec
  part : Nat
  source : Nat
  deriving DecidableEq, Repr

/-- Who holds a translation or page request (R330, R332). -/
inductive Holder
  | ctx (core ctx : Nat)
  | prod (core ctx : Nat) (pc : Word)
  | engine (u n : Nat)
  | drain (u : Nat)
  | outbound (u : Nat)
  | streamer (u : Nat)
  | group (p g : Nat)
  | member (p g fc : Nat)
  | queue (p slot : Nat)
  | decrement (p id fc : Nat)
  | scan (p : Nat)
  /-- the status line of a gang switch (R290) -/
  | switch (p : Nat)
  /-- a record, notice or stop block, by its line and the source of its log entry (R317, R322) -/
  | record (line source : Nat)
  /-- the proxy home of a watched host line (R157) -/
  | line
  /-- an UNWATCH, which sends no page request (R259); a TSTART's read of a stop block (R309); a hint (R177) -/
  | unwatch (core ctx : Nat)
  | tstart (core ctx : Nat)
  | hint
  deriving DecidableEq, Repr

/-- A translation-cache entry (R331): `pages` pages of 64 KiB from `vpage`, to `ppage`. -/
structure TlbEntry where
  tag : Nat
  pasid : Nat
  vpage : Nat
  pages : Nat
  ppage : Nat
  /-- the class of the physical page (R329): the other partition whose aperture it lay in at the fill (log 75) -/
  win : Option Nat
  r : Bool
  w : Bool
  deriving DecidableEq, Repr

/-- An outstanding translation request or page request (R330, R332). -/
structure PageReq where
  pasid : Nat
  vpage : Nat
  write : Bool
  /-- 0 translation request sent, 1 page request sent, 2 waiting for one of the 64 page requests (R332) -/
  st : Nat
  /-- an invalidation arrived after it was sent: its answer is discarded (R333) -/
  stale : Bool
  holders : List Holder
  /-- the address that each holder asked for -/
  asked : List (Holder × Word)
  /-- the host port by which the page request left (R350) -/
  port : Nat
  deriving DecidableEq, Repr

/-- A refused translation for one holder (R330): fault code and DETAIL. -/
structure Refused where
  holder : Holder
  /-- it asked for write permission -/
  write : Bool
  pasid : Nat
  vpage : Nat
  code : Nat
  detail : Word
  deriving DecidableEq, Repr

/-- A watch-table entry or inline slot: a thread's watch, or a gate record (R156, R243). -/
inductive Watcher | thread (tid : W32) (num : Nat) | gate (u id : Nat) deriving DecidableEq, Repr

/-- The directory entry of a 512-byte block (R149, R150, R352). -/
structure Dir where
  /-- owner of each unit, by the unit's first key -/
  owner : FMap Nat
  /-- up to four sharers of each unit -/
  sharers : FMap (List Nat)
  /-- bulkhead vector once the pointers overflow -/
  many : FMap (BitVec 48)
  hc : BitVec 8
  /-- 32-byte sectors of the block that the L2 holds valid, and that one of them is dirty (R149) -/
  sectors : BitVec 16
  dirty : Bool
  /-- inline watchers: line index in the block, and the watcher -/
  inl : List (Nat × Watcher)
  vfTag : BitVec 2
  deriving DecidableEq, Repr

/-- A grain change in progress (R148): page, new grain, slices done, and the context whose store waits. -/
structure GrainReq where
  page : Nat
  grain : BitVec 2
  done : BitVec 8
  core : Nat
  ctx : Nat
  deriving DecidableEq, Repr

/-- An access to a home from outside the cores' instructions (R151, R277, R341, R349, R358). -/
inductive OutReq
  | coherence (core addr : Nat) (k : CohKind)
  | host (port pa : Nat) (r : HostReq)
  | hostAtomic (port pa : Nat) (op : HostAtomic) (dbl : Bool) (x y : Word)
  | cross (imp exp dpa : Nat) (r : HostReq)
  | remote (port pkg part p dpa : Nat) (r : RemoteReq)
  | doorbell (port vf q : Nat) (x : Word)
  deriving DecidableEq, Repr

/-- Who waits in a home queue (R151): the instruction of a context, by how many it had retired; a producer; or an access from outside. -/
inductive HomeWho
  | ctx (core ctx : Nat) (tid : W32) (retired : Nat)
  | prod (core ctx : Nat) (tid : W32) (pc : Word)
  | outside (r : OutReq)
  deriving DecidableEq, Repr

/-- A request in a home queue: the keys of the units it asks for; of one from outside, whether it is at the home again; of a context's or a
producer's, whether it has been served, its later elements keeping its place. -/
structure HomeReq where
  lo : Nat
  hi : Nat
  who : HomeWho
  sent : Bool
  served : Bool
  deriving DecidableEq, Repr

/-- A bulkhead's shared state. -/
structure Bulk where
  tlb : List TlbEntry
  reqs : List PageReq
  refused : List Refused
  /-- notices, engine and bounce records whose line waits for a translation -/
  pendRecs : List PendRec
  vlog : FMap (BitVec 128)
  vcount : W32
  watchTab : List (Nat × Watcher)
  coarse : FMap Bool
  coarseCount : Nat
  shallows : List Rec
  dir : FMap Dir
  /-- grain copy of slice i for page q of the bulkhead at key 8 q + i (R142, R147) -/
  grain : FMap (BitVec 2)
  grainReqs : List GrainReq
  /-- by line: 1 BISnpData outstanding, 2 BISnpInv outstanding, 3 answered: the host keeps a shared copy (R352) -/
  bisnp : FMap Nat
  /-- ranges of keys that the device's own units have written while a back-invalidation of their line is out (R352) -/
  biOver : List (Nat × Nat)
  /-- requests that wait at the home, oldest first (R148, R151) -/
  homeQ : List HomeReq
  /-- units that the save engine of a gang switch owns (R154), by their first key -/
  saving : FMap Bool
  deriving DecidableEq, Repr

/-- A registered code range (R49, R337): its pages as (range page, device key of the page). -/
structure CodeRange where
  base : Nat
  len : Nat
  bitmap : Nat
  pasid : Nat
  boot : Bool
  pages : List Nat
  bmPages : List Nat
  deriving DecidableEq, Repr

/-- A CODEMAP request at the scanner (R337): operands, status line, caller. -/
structure Scan where
  base : Nat
  len : Nat
  bitmap : Nat
  status : Word
  pasid : Nat
  vf : Nat
  bulk : Nat
  tid : W32
  /-- PC and fault line of the CODEMAP, and the pages whose PAGE_WAIT notice is written (R330) -/
  pc : Word
  faultLine : Word
  noticed : List Nat
  /-- the boot range's scan, which has no status line (R327) -/
  boot : Bool
  /-- an invalidation has covered its range (R334) -/
  spoiled : Bool
  /-- pages sealed for the scan, of the range and of the bitmap: keys / 65536 -/
  pages : List Nat
  bmPages : List Nat
  /-- what it has found and not yet reported: status and offset (R50) -/
  result : Option (Nat × Nat)
  deriving DecidableEq, Repr

/-- A launch in progress (R24-R29). -/
structure Launch where
  id : Nat
  addr : Word
  words : List Word
  vf : Nat
  queueVf : Nat
  slot : Nat
  /-- flat clusters whose flood is still in the meshes -/
  floods : List Nat
  /-- clusters that have not decremented the counter -/
  counting : List Nat
  /-- cores with a rest of their share to spawn: core key and next t (R28) -/
  heldShares : List (Nat × Nat)
  deriving DecidableEq, Repr

/-- A group fill that has started (R183): its sequence, whether the timer started it, how many asked, the tarn offset it
writes, source, length, the VF of the GLOAD that set P, and the places of its source as translated when it started, one
per page, none while a page request holds it; `bad`: the source cannot be read. -/
structure Fill where
  seq : W32
  timed : Bool
  asked : Nat
  off : Nat
  source : Word
  len : Nat
  vf : Nat
  places : Option (List Place)
  /-- its place in the order of translations, for the drain of an invalidation (R333) -/
  mark : Nat
  bad : Bool
  deriving DecidableEq, Repr

/-- A group-load entry (R179). -/
structure Group where
  valid : Bool
  m : Nat
  j : Nat
  a : Nat
  off : Nat
  size : Nat
  timer : Nat
  l : W32
  p : Bool
  deadline : Nat
  source : Word
  len : Nat
  /-- member map and asked map as lists of flat clusters -/
  members : List Nat
  asked : List Nat
  /-- VF of the thread whose GLOAD set P (R409) -/
  askVf : Nat
  /-- fills started and not yet sent (R183) -/
  fills : List Fill
  deriving DecidableEq, Repr

/-- A group member slot (R179): cluster, thread id, completion address, mode, VF. -/
structure Member where
  fc : Nat
  tid : W32
  comp : Word
  dec : Bool
  vf : Nat
  deriving DecidableEq, Repr

/-- A held completion write of a group fill (R183): it is made for the member as it was when the fill was sent. -/
structure HeldComp where
  g : Nat
  m : Member
  value : Word
  deriving DecidableEq, Repr

/-- A PASID tag of a partition (R331, R333). -/
structure Tag where
  tag : Nat
  pasid : Nat
  epoch : Bool
  used : Nat
  deriving DecidableEq, Repr

/-- An ATS invalidation that waits for its drain (R333): its PASID, and, once its epoch has flipped, the link operations
that the old epoch may hold: those with smaller ids. -/
structure Inval where
  pasid : Nat
  bound : Option Nat
  deriving DecidableEq, Repr

/-- A gang-switch request or a switch whose save has begun (R284-R290). -/
structure Switch where
  vf : Nat
  at_ : Nat
  coop : Bool
  line : Word
  /-- VF and bulkhead of the caller, for the status line -/
  callerVf : Nat
  bulk : Nat
  outgoing : Option Nat
  /-- TS at which the save finished (R290) -/
  savedAt : Nat
  arrived : Nat
  forced : Nat
  /-- TS at which the first core reached S (R290) -/
  begun : Option Nat
  /-- the engines of the outgoing VF stand at their boundaries (R288), and its save is made (R289) -/
  halted : Bool
  saved : Bool
  deriving DecidableEq, Repr

/-- A VF's saved state (R289): contexts, engines, queues, messages. -/
structure SavedVf where
  vf : Nat
  ctxs : List (Nat × Nat × Ctx)
  units : FMap Clus
  sends : List (Nat × SendEntry)
  floods : List (Nat × List Nat)
  posts : List (Nat × Nat × Nat × Post)
  since : Nat
  deriving DecidableEq, Repr

/-- A queue slot: the queue it holds, and whether it waits for the next notify (R278, R280). -/
structure Slot where
  queue : Option Nat
  idle : Bool
  deriving DecidableEq, Repr

/-- A partition's internal state. Its descriptor and tables are PF registers (R323-R325). -/
structure Part where
  bulks : List Nat
  running : Option Nat
  /-- the VF of a launch accepted when none ran, whose saved state cannot be restored yet (R282, R287) -/
  next : Option Nat
  switch : Option Switch
  savedVfs : List SavedVf
  ranges : List CodeRange
  scan : Option Scan
  launches : List Launch
  launchSeq : Nat
  /-- authority entries: entry e of table n at key 16 n + e (R299) -/
  auth : FMap (BitVec 128)
  groups : FMap Group
  members : FMap (List Member)
  heldComps : List HeldComp
  tags : List Tag
  /-- invalidations not yet completed, in the order they arrived (R333) -/
  invals : List Inval
  /-- VFs whose next accepted launch has a 0xfffe notice before it (R298) -/
  resumeDue : List Nat
  /-- notices that wait for room in the service ring (R297, R298): service number and VF -/
  notices : List (Nat × Nat)
  /-- launch status writes held by a page request (R25): address, value, VF, queue -/
  heldStatus : List (Word × Word × Nat × Nat)
  /-- queue slots (R278) -/
  slots : FMap Slot
  tsOffset : Nat
  /-- a reset in progress: its RESULT (R344, R345) -/
  resetCause : Option Nat
  /-- the bulkhead that it resets and tests at its end, and the cause (R345) -/
  thenCycle : List (Nat × Bool)
  /-- PASIDs for which the last reset sent a PRI Stop Marker (R332) -/
  markers : List Nat
  deriving DecidableEq, Repr

/-- How the request of a holder stands: outstanding, answered with data, lost (poisoned or timed out), refused by an error response,
or on a link without CXL.cache (R173). -/
inductive OpAns | pending | data | lost | refused | noCache deriving DecidableEq, Repr

/-- A device request over a link that has not completed (R350, R353, R358). -/
structure HostOp where
  id : Nat
  part : Nat
  /-- its VF, and the PASID under which it was translated (R333) -/
  vf : Nat
  pasid : Nat
  key : Nat
  write : Bool
  atomic : Bool
  /-- a request of the proxy home for ownership of the line (R150, R173) -/
  own : Bool
  /-- an agent's decrement of the 64-bit word (R29, R183, R240) -/
  dec : Bool
  core : Nat
  ctx : Nat
  pc : Word
  sent : Bool
  since : Nat
  /-- the bytes of a write -/
  data : List Byte
  /-- of a remote access: its window and the remote DPA (R357) -/
  win : Nat
  dpa : Nat
  /-- the thread that made it -/
  tid : W32
  /-- host port or reed port by which it left -/
  port : Nat
  /-- a write's data carries the mark (R353) -/
  poison : Bool
  /-- of a request that no thread made: who made it, and how it stands (R350, R359) -/
  holder : Option Holder
  ans : OpAns
  /-- ranges of keys written here since, and whether with poison: an answer does not overwrite them (R188) -/
  newer : List (Nat × Nat × Bool)
  deriving DecidableEq, Repr

/-- Proxy-home state of a host line (R144, R152). -/
inductive HostLine | i | s | e | m deriving DecidableEq, Repr

/-- One turn of the machine (log 1): TS advances, a core runs one core cycle, or a device event takes place. -/
inductive Turn
  | tick (n : Nat)
  | cycle (core : Nat)
  | event (i : Instr)
  deriving DecidableEq, Repr

/-- The state of the package. -/
structure State where
  mem : Mem
  /-- TS (R1) -/
  ts : Nat
  cores : FMap Core
  units : FMap Clus
  bulks : FMap Bulk
  parts : FMap Part
  /-- PF BAR0 by 8-byte word: key = offset / 8 -/
  pf : FMap Word
  /-- PF stores to a partition's descriptor that wait until it is idle (R324, R361) -/
  pfLate : FMap Word
  /-- proxy-home state by partition and line: key = partition + 48 * (line address / 64) -/
  proxy : FMap HostLine
  /-- the Outstanding Page Request Allocation that system software has made (R332) -/
  prAlloc : Nat
  /-- where the host has put BAR4, the remote aperture (R349, R357) -/
  bar4 : Nat
  hostOps : List HostOp
  remoteOps : List HostOp
  opSeq : Nat
  /-- host ports (R348-R351): up, CXL.cache, and CXL.mem with host caching, which 256-byte flits bring -/
  portUp : List Bool
  portCxl : List Bool
  portHdm : List Bool
  /-- reed ports down, lanes stopped by key 4 * port + lane (R358, R360) -/
  reedDown : FMap Bool
  laneStopped : FMap Bool
  /-- management: image measured and awaiting running, throttles (R401, R405, R407) -/
  booting : Bool
  /-- TS at which GO was last set, and MEAS0 to MEAS2 as they were then (R403) -/
  quoteAt : Nat
  quoteMeas : List Byte
  powerThrottle : Bool
  thermalThrottle : Bool
  /-- position in the supply of free values (log 11) -/
  free : Nat
  /-- the core and context that act -/
  cur : Nat × Nat
  /-- turns still to come, next first (log 1) -/
  agenda : List Turn
  deriving DecidableEq, Repr

/-- Why a step ends in a fault of the machine itself. Every fault of a thread is a next state in which the thread has
stopped (R308). -/
inductive Fault
  /-- raised by no meaning: every access outside the address spaces is reported by the machine itself, as a stop of the
  thread or an error answer (R143, R160). Safe. -/
  | none_
  deriving DecidableEq, Repr

/-- Why the model does not say what happens. -/
inductive Refusal
  /-- an arm of exec without a meaning. Safe: nothing can be proved of a next state. -/
  | notModelled (mnemonic : String)
  /-- step: the bytes at the PC lie in a registered range and are no instruction. The scanner registers no such range
  (R41, R49), so no run reaches it. Safe. -/
  | undecodable
  deriving DecidableEq, Repr

/-- Registers all zero (R18, R61). -/
def Regs.zero : Regs :=
  { g := [], v := [], e := [], i := [], la := 0#512, lb := 0#512, lc := 0#512, env := 0#64, q := 0#8 }

/-- A free slot (R14). -/
def Rec.empty : Rec :=
  { tid := 0#32, state := .free, roam := false, roamQ := false, prio := 0#2, pc := 0#64, table := 0#10, save := false, spillKind := 0#2,
    faulted := false, sendwait := false, deep := false, launch := false, autoreap := false, pending := 0#4,
    faultLine := 0#64, inbox := 0#64, g1 := 0#64, g2 := 0#64, g3 := 0#64, g4 := 0#64, vf := 0, part := 0, level := 0,
    since := 0, deadline := none, wokeDeadline := false, wokeWake := false, wokeCoarse := false, deliver := false,
    result := none, migrate := none, launchId := none, coord := 0, weight := 1, image := none, place := none,
    saved := false, fence := none }

/-- A context that runs no thread. -/
def Ctx.empty : Ctx :=
  { bound := false, tid := 0#32, pc := 0#64, regs := Regs.zero, gEmpty := 0#32, vEmpty := 0#32, posts := [],
    wait := .none_, onceQ := none, readyAt := 0, last := none, results := [], inflight := [], retired := 0, feTries := 0, susp := none,
    stop := none, noticed := none, scOpen := false, scAt := none, msg := none, answer := none, answeredAt := 0, begun := false, fence := none }

/-- A core at reset. -/
def Core.empty : Core :=
  { ctxs := [], slots := [], nextGen := [], watches := [], sendBuf := [], perf := [], perfWas := [], l1 := [], l1i := [], cycle := 0, sample := 0,
    rot := 0, busy := 0, scWin := 0, scCount := 0 }

/-- A cluster's units at reset. -/
def Clus.empty : Clus :=
  { mq := [], tiles := [], stat := [], saved := [], resumed := [], run := none, wellhead := [], whValid := [],
    outq := [], flying := [], sq := [], turn := none, gates := [], gateSeq := 0, fifo := [], launches := [], posts := [],
    gated := false, idleAt := 0 }

/-- A bulkhead at reset. -/
def Bulk.empty : Bulk :=
  { tlb := [], reqs := [], refused := [], pendRecs := [], vlog := [], vcount := 0#32, watchTab := [], coarse := [], coarseCount := 0,
    shallows := [], dir := [], grain := [], grainReqs := [], bisnp := [], biOver := [], homeQ := [], saving := [] }

/-- A directory entry of a block that no cache holds. -/
def Dir.empty : Dir :=
  { owner := [], sharers := [], many := [], hc := 0#8, sectors := 0#16, dirty := false, inl := [], vfTag := 0#2 }

/-- An invalid group entry. -/
def Group.empty : Group :=
  { valid := false, m := 0, j := 0, a := 0, off := 0, size := 0, timer := 0, l := 0xffffffff#32, p := false, deadline := 0,
    source := 0#64, len := 0, members := [], asked := [], askVf := 0, fills := [] }

/-- A tile's status at reset (R217). -/
def TileStat.empty : TileStat := { lock := false, fault := false, crow := 0, cblk := 0, prog := 0 }

/-- A partition that has not started. -/
def Part.empty : Part :=
  { bulks := [], running := none, next := none, switch := none, savedVfs := [], ranges := [], scan := none,
    launches := [], launchSeq := 0, auth := [], groups := [], members := [], heldComps := [], tags := [], invals := [],
    resumeDue := [], notices := [], heldStatus := [], slots := [], tsOffset := 0, resetCause := none, thenCycle := [], markers := [] }

/-- A queue slot that holds no queue. -/
def Slot.empty : Slot := { queue := none, idle := false }

/-- Memory with nothing written (log 3): every word full, no waiter, no poison. -/
def Mem.empty : Mem := { cells := [], undef := [], empties := [], waiters := [], poison := [] }


/-- Index of a PF BAR0 word. -/
def pfKey (off : Nat) : Nat := off / 8

/-- The management registers with a reset value that is not 0: PWRCAP 2,800 and the fused IDKEY (R408). -/
def State.pfReset : FMap Word :=
  [(pfKey 0x10010, 2800#64), (pfKey 0x10300, Config.idKeyWord 0), (pfKey 0x10308, Config.idKeyWord 1),
   (pfKey 0x10310, Config.idKeyWord 2), (pfKey 0x10318, Config.idKeyWord 3), (pfKey 0x10320, Config.idKeyWord 4),
   (pfKey 0x10328, Config.idKeyWord 5), (pfKey 0x10330, Config.idKeyWord 6), (pfKey 0x10338, Config.idKeyWord 7)]

/-- The package right after module reset (R401, R408): no partition, every bulkhead free, nothing in memory, ports as
log 10 says. -/
def State.reset : State :=
  { mem := Mem.empty, ts := 0, cores := [], units := [], bulks := [], parts := [], pf := State.pfReset, pfLate := [], proxy := [],
    prAlloc := 3072, bar4 := 2 ^ 56, hostOps := [], remoteOps := [], opSeq := 0, portUp := [true, true], portCxl := [false, false],
    portHdm := [false, false],
    reedDown := [], laneStopped := [], booting := false, quoteAt := 0, quoteMeas := [], powerThrottle := false,
    thermalThrottle := false, free := 0, cur := (0, 0), agenda := [] }

end Sys2Proof.Machine
end

