-- ==== Sys2Proof/Machine/FMap.lean ====
section
/-! DEFINITION. Finite maps as lists in one canonical form (keys strictly rising), and the accessors of State that go
through them: cores, contexts, clusters, bulkheads, partitions, PF registers. -/

namespace Sys2Proof.Machine

/-- What a map holds at k, `dflt` where nothing is listed. -/
def fget {β : Type} (dflt : β) : FMap β → Nat → β
  | [], _ => dflt
  | (k', x) :: m, k => if k' = k then x else fget dflt m k

/-- A new key at its place in rising order. -/
def fins {β : Type} (k : Nat) (x : β) : FMap β → FMap β
  | [] => [(k, x)]
  | (k', y) :: m => if k < k' then (k, x) :: (k', y) :: m else (k', y) :: fins k x m

/-- The map without k. -/
def fdel {β : Type} (m : FMap β) (k : Nat) : FMap β := m.filter fun p => p.1 ≠ k

/-- The map with x at k. -/
def fput {β : Type} (m : FMap β) (k : Nat) (x : β) : FMap β := fins k x (fdel m k)

/-- The map with x at k, in the form that lists no default. -/
def fset {β : Type} [DecidableEq β] (dflt : β) (m : FMap β) (k : Nat) (x : β) : FMap β :=
  if x = dflt then fdel m k else fput m k x

/-- Keys strictly rising. -/
def FMap.sorted {β : Type} : FMap β → Bool
  | [] => true
  | [_] => true
  | (k, _) :: (k', y) :: m => decide (k < k') && FMap.sorted ((k', y) :: m)

/-- The canonical form: keys strictly rising, no entry equal to what an unlisted key reads as. -/
def FMap.wf {β : Type} [DecidableEq β] (dflt : β) (m : FMap β) : Bool := m.sorted && m.all fun p => p.2 ≠ dflt

/-- Core key of barrel core k of cluster c of bulkhead b (R2). -/
def coreKey (b c k : Nat) : Nat := 32 * b + 4 * c + k
/-- Core key of the deep core of bulkhead b. -/
def deepKey (b : Nat) : Nat := 32 * b + 24
/-- A deep core (R30). -/
def isDeep (k : Nat) : Bool := k % 32 = 24
/-- Bulkhead of a core. -/
def coreBulk (k : Nat) : Nat := k / 32
/-- Unit key of the cluster of a core; 8 b + 6 for a deep core. -/
def coreUnit (k : Nat) : Nat := 8 * (k / 32) + k % 32 / 4
/-- Bulkhead of a unit. -/
def unitBulk (u : Nat) : Nat := u / 8

/-- A core. -/
def State.core (s : State) (k : Nat) : Core := fget Core.empty s.cores k
/-- A core changed. -/
def State.modCore (s : State) (k : Nat) (f : Core → Core) : State := { s with cores := fput s.cores k (f (s.core k)) }
/-- A context. -/
def State.ctx (s : State) (k c : Nat) : Ctx := fget Ctx.empty (s.core k).ctxs c
/-- A context changed. -/
def State.modCtx (s : State) (k c : Nat) (f : Ctx → Ctx) : State :=
  s.modCore k fun x => { x with ctxs := fput x.ctxs c (f (fget Ctx.empty x.ctxs c)) }
/-- A cluster's units. -/
def State.unit (s : State) (u : Nat) : Clus := fget Clus.empty s.units u
/-- A cluster's units changed. -/
def State.modUnit (s : State) (u : Nat) (f : Clus → Clus) : State := { s with units := fput s.units u (f (s.unit u)) }
/-- A bulkhead. -/
def State.bulk (s : State) (b : Nat) : Bulk := fget Bulk.empty s.bulks b
/-- A bulkhead changed. -/
def State.modBulk (s : State) (b : Nat) (f : Bulk → Bulk) : State := { s with bulks := fput s.bulks b (f (s.bulk b)) }
/-- A partition. -/
def State.part (s : State) (p : Nat) : Part := fget Part.empty s.parts p
/-- A partition changed. -/
def State.modPart (s : State) (p : Nat) (f : Part → Part) : State := { s with parts := fput s.parts p (f (s.part p)) }
/-- A word of PF BAR0 at a byte offset. -/
def State.pfGet (s : State) (off : Nat) : Word := fget 0#64 s.pf (pfKey off)
/-- A word of PF BAR0 written. -/
def State.pfSet (s : State) (off : Nat) (x : Word) : State := { s with pf := fput s.pf (pfKey off) x }

/-- Bits [lo+n-1:lo] of a word as a number. -/
def bitsOf {w : Nat} (x : BitVec w) (lo n : Nat) : Nat := (x.toNat >>> lo) % 2 ^ n
/-- A word with the n bits from lo replaced. -/
def setBits (x : Word) (lo n v : Nat) : Word :=
  BitVec.ofNat 64 (x.toNat - ((x.toNat >>> lo) % 2 ^ n) * 2 ^ lo + (v % 2 ^ n) * 2 ^ lo)

/-- PF offset of a partition window (R323). -/
def partBase (p : Nat) : Nat := 0x40000 + 0x1000 * p
/-- A word of partition p's descriptor (R324). -/
def State.desc (s : State) (p off : Nat) : Word := s.pfGet (partBase p + off)
/-- STATE of partition p's descriptor (R324): 1 is running. -/
def State.partRunning (s : State) (p : Nat) : Bool := bitsOf (s.desc p 0x10) 0 2 = 1
/-- The number of bulkheads N of a partition. -/
def Part.n (p : Part) : Nat := p.bulks.length
/-- Position of the first entry equal to x. -/
def idxOf (x : Nat) : List Nat → Nat
  | [] => 0
  | y :: l => if y = x then 0 else idxOf x l + 1
/-- Rank of a bulkhead in its partition (R3). -/
def Part.rank (p : Part) (b : Nat) : Nat := idxOf b p.bulks
/-- Bulkhead of rank r. -/
def Part.bulkOf (p : Part) (r : Nat) : Nat := p.bulks.getD r 0
/-- Flat cluster number of a cluster key (R3). -/
def Part.flatCl (p : Part) (u : Nat) : Nat := p.rank (u / 8) * 6 + u % 8
/-- Cluster key of a flat cluster number. -/
def Part.clOfFlat (p : Part) (fc : Nat) : Nat := 8 * p.bulkOf (fc / 6) + fc % 6
/-- Flat core number of a barrel core (R3). -/
def Part.flatCore (p : Part) (k : Nat) : Nat := p.rank (k / 32) * 24 + k % 32
/-- Core key of a flat core number. -/
def Part.coreOfFlat (p : Part) (n : Nat) : Nat := 32 * p.bulkOf (n / 24) + n % 24

/-- The partitions that are running, of the 48 numbers (R323). -/
def State.runningParts (s : State) : List Nat := (List.range 48).filter s.partRunning
/-- The partition that a bulkhead belongs to, if a running one does. -/
def State.partOf (s : State) (b : Nat) : Option Nat := s.runningParts.find? fun p => (s.part p).bulks.contains b

/-- Offset of VF v's entry in the window of the partition p that owns it (R325). -/
def vfOff (p v : Nat) : Nat := partBase p + 0x200 + 8 * v
/-- A VF's entry (R325). -/
def State.vfEntry (s : State) (p v : Nat) : Word := s.pfGet (vfOff p v)
/-- A partition owns the VFs of its bulkheads (R323). -/
def Part.owns (p : Part) (v : Nat) : Bool := decide (v < 192) && p.bulks.contains (v / 4)
/-- ENABLE, RESIDENT, RIX, PASID of a VF entry (R325). -/
def vfEnabled (e : Word) : Bool := e.getLsbD 0
def vfResident (e : Word) : Bool := e.getLsbD 1
def vfRix (e : Word) : Nat := bitsOf e 2 2
def vfPasid (e : Word) : Nat := bitsOf e 8 20
/-- The partition that holds a bulkhead, running or not yet (R323). -/
def State.ownerOf (s : State) (b : Nat) : Option Nat := (List.range 48).find? fun p => (s.part p).bulks.contains b
/-- The PASID of VF v of partition p. -/
def State.pasid (s : State) (p v : Nat) : Nat := vfPasid (s.vfEntry p v)
/-- The home VF: slot 0 of the lowest-numbered bulkhead (R323). -/
def Part.homeVf (p : Part) : Nat := 4 * p.bulkOf 0

/-- The TS a partition reads: the package TS, offset in replay (R363). -/
def State.tsOf (s : State) (p : Nat) : Nat := (s.ts + (s.part p).tsOffset) % 2 ^ 64

/-- A little-endian number from bytes (R4). -/
def leNat : List Byte → Nat
  | [] => 0
  | b :: bs => b.toNat + 256 * leNat bs
/-- The n little-endian bytes of a number. -/
def leBytes : Nat → Nat → List Byte
  | 0, _ => []
  | n + 1, x => BitVec.ofNat 8 x :: leBytes n (x / 256)
/-- Sign extension of the low n bytes of x to 64 bits. -/
def sextBytes (n x : Nat) : Word := (BitVec.ofNat (8 * n) x).signExtend 64
/-- Canonical form (R143): bits [63:57] equal bit 56. -/
def canonical (a : Word) : Bool := (BitVec.signExtend 64 (BitVec.setWidth 57 a)) == a

end Sys2Proof.Machine
end

