-- ==== Sys2Proof/Machine/Records.lean ====
section
/-! DEFINITION. Records, ready queues, spill, swap, refill, wakes (R9-R16, R249-R253, R260). -/

namespace Sys2Proof.Machine

/-- The outcome of one instruction or event. -/
abbrev Out := Host.Outcome State Fault Refusal

/-- Home bulkhead, cluster, core, slot and generation of a thread id (R9). -/
def tidBulk (t : W32) : Nat := bitsOf t 21 6
def tidCl (t : W32) : Nat := bitsOf t 18 3
def tidK (t : W32) : Nat := bitsOf t 16 2
def tidSlot (t : W32) : Nat := bitsOf t 8 8
def tidGen (t : W32) : Byte := BitVec.ofNat 8 (bitsOf t 0 8)
/-- Home core key and home cluster key. -/
def tidCore (t : W32) : Nat := coreKey (tidBulk t) (tidCl t) (tidK t)
def tidUnit (t : W32) : Nat := 8 * tidBulk t + tidCl t
/-- The id of a slot and generation of a core (R9). -/
def mkTid (core slot : Nat) (gen : Byte) : W32 :=
  BitVec.ofNat 32 ((core / 32) * 2 ^ 21 + (core % 32 / 4) * 2 ^ 18 + (core % 4) * 2 ^ 16 + slot * 256 + gen.toNat)

/-- The resident record of a slot. -/
def State.slotRec (s : State) (core slot : Nat) : Rec := fget Rec.empty (s.core core).slots slot

/-- A slot's record written. -/
def State.setSlot (s : State) (core slot : Nat) (r : Rec) : State :=
  s.modCore core fun c => { c with slots := fput c.slots slot r }

/-- A record stands in its slot. -/
def State.resident (s : State) (t : W32) : Bool :=
  let r := s.slotRec (tidCore t) (tidSlot t)
  decide (r.state ≠ .free) && r.tid == t

/-- The live record of an id, resident or spilled (R10). -/
def State.findRec (s : State) (t : W32) : Option Rec :=
  if s.resident t then some (s.slotRec (tidCore t) (tidSlot t))
  else (s.bulk (tidBulk t)).shallows.find? fun r => r.tid == t

/-- The live record of an id, changed where it stands (R16). -/
def State.modRec (s : State) (t : W32) (f : Rec → Rec) : State :=
  if s.resident t then s.setSlot (tidCore t) (tidSlot t) (f (s.slotRec (tidCore t) (tidSlot t)))
  else s.modBulk (tidBulk t) fun b => { b with shallows := b.shallows.map fun r => if r.tid == t then f r else r }

/-- Every live record of a partition. -/
def State.liveRecs (s : State) (p : Nat) : List Rec :=
  (s.cores.flatMap fun c => c.2.slots.filterMap fun x => if x.2.state ≠ .free ∧ x.2.part = p then some x.2 else none) ++
  (s.bulks.flatMap fun b => b.2.shallows.filter fun r => r.part = p)

/-- A VF is running (R282). -/
def State.vfRuns (s : State) (p vf : Nat) : Bool := (s.part p).running == some vf

/-- The record's VF is running, or it is the deep core's (R282). -/
def State.recRuns (s : State) (r : Rec) : Bool := r.deep || s.vfRuns r.part r.vf

/-- The number of armed watches: the descriptors that name the thread (R256). -/
def State.armed (s : State) (t : W32) : Nat := ((s.core (tidCore t)).watches.filter fun d => d.tid == t).length

/-- The unit whose queue a ready record joins (R249). -/
def Rec.queueUnit (r : Rec) : Nat :=
  if r.deep then 8 * tidBulk r.tid + 6
  else match r.migrate with
    | some c => 8 * tidBulk r.tid + c
    | none => tidUnit r.tid

/-- A place in a FIFO: at the tail, and among those that joined in the same tick by home core and slot (R249). -/
def fifoIns (t : W32) (now : Nat) : List (W32 × Nat) → List (W32 × Nat)
  | [] => [(t, now)]
  | (u, n) :: q => if n = now ∧ t.toNat / 256 < u.toNat / 256 then (t, now) :: (u, n) :: q else (u, n) :: fifoIns t now q

/-- A thread leaves whatever FIFO holds it (R249). -/
def State.leaveQueues (s : State) (t : W32) : State :=
  { s with units := s.units.map fun u =>
      if u.1 / 8 = tidBulk t then
        (u.1, { u.2 with fifo := u.2.fifo.map fun l => (l.1, l.2.filter fun e => e.1 != t) })
      else u }

/-- A resident record joins the FIFO of its level (R249), with its roam flag as it is then (R311). A steward waits for context 0
alone and joins none (R21, R251). -/
def State.joinQueue (s : State) (t : W32) : State :=
  match s.findRec t with
  | none => s
  | some r =>
    if tidSlot t = 0 then s
    else (s.modRec t fun r => { r with roamQ := r.roam }).modUnit r.queueUnit fun u =>
      { u with fifo := fput u.fifo r.level (fifoIns t s.ts (fget [] u.fifo r.level)) }

/-- The order of R252 among spilled records: the higher level first, then the longer wait. -/
def Rec.ahead (a b : Rec) : Bool := decide (b.level < a.level) || (a.level == b.level && decide (a.since < b.since))

/-- The first by that order. -/
def bestRec : List Rec → Option Rec
  | [] => none
  | r :: l => match bestRec l with
    | none => some r
    | some b => if b.ahead r then some b else some r

/-- The spilled record that goes next into a slot of a core (R252, R253). -/
def State.spillNext (s : State) (core slot : Nat) : Option Rec :=
  bestRec ((s.bulk (core / 32)).shallows.filter fun r =>
    tidCore r.tid = core && tidSlot r.tid = slot && r.spillKind == 0#2)

/-- A spilled record takes its slot as ready, at the level it has reached (R253); a priority that TWRITE gave it meanwhile comes with its
next ready (R311, log 111). -/
def State.fillSlot (s : State) (r : Rec) : State :=
  let s := s.modBulk (tidBulk r.tid) fun b => { b with shallows := b.shallows.filter fun x => x.tid != r.tid }
  (s.setSlot (tidCore r.tid) (tidSlot r.tid) { r with state := .ready, spillKind := 0#2 }).joinQueue r.tid

/-- A resident record as it stands in the shallows (R14, R252). -/
def Rec.spill (r : Rec) : Rec :=
  { r with state := .spilled, migrate := none, spillKind := match r.state with | .sleeping => 1#2 | .stopped => 2#2 | _ => 0#2 }

/-- The home core attempts a swap for a slot number (R252); a slot that is free takes the record (R253). -/
def State.trySwap (s : State) (core slot : Nat) : State :=
  match s.spillNext core slot with
  | none => s
  | some c =>
    let r := s.slotRec core slot
    if slot ≠ 0 ∧ r.state = .free then s.fillSlot c
    else
    let ok := slot ≠ 0 ∧ (r.state = .stopped ∨ (r.state = .sleeping ∧ r.sendwait = false) ∨
      (r.state = .ready ∧ (r.level < c.level ∨ s.recRuns r = false)))
    if ok then
      let s := s.leaveQueues r.tid
      let s := s.fillSlot c
      s.modBulk (core / 32) fun b => { b with shallows := b.shallows ++ [r.spill] }
    else s

/-- A free slot is refilled (R253). Slot 0 never takes part (R304). -/
def State.refill (s : State) (core slot : Nat) : State :=
  if slot ≠ 0 ∧ (s.slotRec core slot).state = .free then
    match s.spillNext core slot with
    | none => s
    | some r => s.fillSlot r
  else s

/-- A record becomes ready: it joins its queue at its base priority, or, spilled, takes SPILLKIND 0 and the swap is
attempted (R15, R250, R252). Any deadline is cancelled (R261). -/
def State.makeReady (s : State) (t : W32) : State :=
  let f : Rec → Rec := fun r => { r with level := r.prio.toNat, since := s.ts, deadline := none, migrate := none }
  if s.resident t then (s.modRec t fun r => { f r with state := .ready }).joinQueue t
  else (s.modRec t fun r => { f r with spillKind := 0#2 }).trySwap (tidCore t) (tidSlot t)

/-- A record in a state that a wake makes ready (R260, R263). -/
def Rec.wakeable (r : Rec) : Bool := (r.state == .sleeping && !r.sendwait) || (r.state == .spilled && r.spillKind == 1#2)

/-- A performance counter that counts event ev, for context c if it is a context event (R371, R372). -/
def PerfCtr.counts (x : PerfCtr) (ev : Nat) (c : Option Nat) : Bool :=
  x.ctl.getLsbD 63 && bitsOf x.ctl 0 8 == ev && (match c with | none => true | some n => x.ctl.getLsbD (16 + n))
def PerfCtr.bump (x : PerfCtr) (ev : Nat) (c : Option Nat) (n : Nat) : PerfCtr :=
  if x.counts ev c then { x with value := x.value + BitVec.ofNat 64 n } else x

/-- n events counted by a core's performance counters (R371). -/
def State.count (s : State) (core ev : Nat) (c : Option Nat) (n : Nat) : State :=
  if (s.core core).perf.isEmpty then s
  else s.modCore core fun x => { x with perf := x.perf.map fun y => (y.1, y.2.bump ev c n) }

/-- A hit on watch n of a thread (R260). -/
def State.hit (s : State) (t : W32) (n : Nat) : State :=
  match s.findRec t with
  | none => s
  | some r =>
    if ((s.core (tidCore t)).watches.any fun d => d.tid == t && d.num == n) then
      let s := s.count (tidCore t) 11 none 1
      let s := s.modRec t fun r => { r with pending := r.pending ||| BitVec.ofNat 4 (2 ^ n) }
      if r.wakeable then s.makeReady t else s
    else s

/-- A coarse wake from bulkhead b (R158, R260): a hit on every coarse watch homed there, and bit 6 of the next mask. -/
def State.coarseHit (s : State) (b : Nat) : State :=
  let ds := s.cores.flatMap fun c => c.2.watches.filter fun d => d.coarse && d.home == b
  ds.foldl (fun s d => (s.modRec d.tid fun r => { r with wokeCoarse := true }).hit d.tid d.num) s

end Sys2Proof.Machine
end

