-- ==== Sys2Proof/Machine/Mem.lean ====
section
/-! DEFINITION. Memory: its keys, reads, writes with what every write does (watches R157, gates R243, word wakes R169,
poison R353), the directory and L1 states (R149-R152), back-invalidation (R352), the violation log (R322). -/

namespace Sys2Proof.Machine

/-- Memory keys (see Mem): device memory of bulkhead b, tarns, host memory, remote packages. -/
def devKey (b o : Nat) : Nat := b * 2 ^ 34 + o
def tarnKey (u o : Nat) : Nat := 2 ^ 48 + u * 2 ^ 22 + o
def hostKey (a : Nat) : Nat := 2 ^ 64 + a
def remoteKey (pkg part dpa : Nat) : Nat := 2 ^ 66 + (pkg * 64 + part) * 2 ^ 40 + dpa
/-- Where a partition's proxy-home state of a host line is kept (R144). -/
def proxyKey (p line : Nat) : Nat := p + 48 * line
/-- Which memory a key is in. -/
def isDevKey (k : Nat) : Bool := decide (k < 2 ^ 48)
def isTarnKey (k : Nat) : Bool := decide (2 ^ 48 ≤ k) && decide (k < 2 ^ 64)
def isHostKey (k : Nat) : Bool := decide (2 ^ 64 ≤ k) && decide (k < 2 ^ 66)
/-- Words of device memory and tarns carry a full/empty bit (R146). -/
def keyHasFe (k : Nat) : Bool := decide (k < 2 ^ 64)
/-- Bulkhead of a device-memory or tarn key (R144). -/
def keyBulk (k : Nat) : Nat := if k < 2 ^ 48 then k / 2 ^ 34 else (k - 2 ^ 48) / 2 ^ 22 / 8
/-- Key of a DPA of a partition (R144): bulkheads in rank order, 16 GiB each. -/
def Part.dpaKey (p : Part) (dpa : Nat) : Nat := devKey (p.bulkOf (dpa / 2 ^ 34)) (dpa % 2 ^ 34)
/-- DPA of a device-memory key of a partition. -/
def Part.keyDpa (p : Part) (k : Nat) : Nat := p.rank (k / 2 ^ 34) * 2 ^ 34 + k % 2 ^ 34
/-- A DPA range lies in the partition's device memory. -/
def Part.dpaIn (p : Part) (dpa len : Nat) : Bool := decide (dpa + len ≤ p.n * 2 ^ 34)

/-- What an unlisted byte reads as: 0 (log 3), or the free value of an undefined range (log 11). -/
def Mem.dflt (m : Mem) (k : Nat) : Byte :=
  match m.undef.find? fun r => decide (r.1 ≤ k) && decide (k < r.2.1) with
  | none => 0#8
  | some r => Config.freeByte (2 ^ 100 * (r.2.2 + 1) + k)
/-- A byte. -/
def Mem.byte (m : Mem) (k : Nat) : Byte := fget (m.dflt k) m.cells k
/-- n bytes. -/
def Mem.bytes (m : Mem) (k : Nat) : Nat → List Byte
  | 0 => []
  | n + 1 => m.byte k :: m.bytes (k + 1) n
/-- An n-byte little-endian number (R4). -/
def Mem.num (m : Mem) (k n : Nat) : Nat := leNat (m.bytes k n)
/-- A 64-bit word. -/
def Mem.word (m : Mem) (k : Nat) : Word := BitVec.ofNat 64 (m.num k 8)
/-- A 64-byte block. -/
def Mem.block (m : Mem) (k : Nat) : Vec := BitVec.ofNat 512 (m.num k 64)
/-- One byte written, in the canonical form. -/
def Mem.setByte (m : Mem) (k : Nat) (b : Byte) : Mem := { m with cells := fset (m.dflt k) m.cells k b }
/-- Bytes written at rising addresses. -/
def Mem.setBytes (m : Mem) (k : Nat) : List Byte → Mem
  | [] => m
  | b :: bs => (m.setByte k b).setBytes (k + 1) bs
/-- The full/empty bit of the word that holds k: full where nothing is listed (R146). -/
def Mem.full (m : Mem) (k : Nat) : Bool := !(fget false m.empties (k / 8))
/-- The full/empty bit set. -/
def Mem.setFull (m : Mem) (k : Nat) (full : Bool) : Mem := { m with empties := fset false m.empties (k / 8) (!full) }
/-- The waiter bit (R167). -/
def Mem.waiter (m : Mem) (k : Nat) : Bool := fget false m.waiters (k / 8)
def Mem.setWaiter (m : Mem) (k : Nat) (w : Bool) : Mem := { m with waiters := fset false m.waiters (k / 8) w }
/-- Some of the n bytes from k lie in a poisoned block (R353). -/
def Mem.poisoned (m : Mem) (k n : Nat) : Bool :=
  (List.range ((k + n - 1) / 64 + 1 - k / 64)).any fun i => fget false m.poison (k / 64 + i)
/-- The mark of a block. -/
def Mem.setPoison (m : Mem) (blk : Nat) (p : Bool) : Mem := { m with poison := fset false m.poison blk p }
/-- The marks after a write of n bytes (R353): good data over a whole block clears it, poisoned data sets it, a partial
good write keeps it. -/
def Mem.markWrite (m : Mem) (k n : Nat) (p : Bool) : Mem :=
  (List.range ((k + n - 1) / 64 + 1 - k / 64)).foldl (fun m i =>
    let blk := k / 64 + i
    let whole := decide (k ≤ 64 * blk) && decide (64 * blk + 64 ≤ k + n)
    if p then m.setPoison blk true else if whole then m.setPoison blk false else m) m
/-- Bytes stored with their poison. -/
def Mem.store (m : Mem) (k : Nat) (bs : List Byte) (p : Bool) : Mem :=
  if bs.isEmpty then m else (m.setBytes k bs).markWrite k bs.length p

/-- Bytes stored at rising addresses, but for those in some ranges. -/
def Mem.setExcept (m : Mem) (rs : List (Nat × Nat)) (k : Nat) : List Byte → Mem
  | [] => m
  | b :: bs =>
    ((if rs.any fun r => decide (r.1 ≤ k) && decide (k < r.2) then m else m.setByte k b)).setExcept rs (k + 1) bs

/-- Memory in its one canonical form: addresses strictly rising, no entry equal to what an unlisted one reads as. -/
def Mem.wf (m : Mem) : Bool :=
  FMap.sorted m.cells && (m.cells.all fun c => c.2 ≠ m.dflt c.1) && FMap.wf false m.empties && FMap.wf false m.waiters && FMap.wf false m.poison

/-- The bytes of keys lo to hi − 1 become undefined (log 11). -/
def Mem.scramble (m : Mem) (lo hi e : Nat) : Mem :=
  { m with
    cells := m.cells.filter fun c => !(decide (lo ≤ c.1) && decide (c.1 < hi))
    undef := (lo, hi, e) :: m.undef.filter fun r => !(decide (lo ≤ r.1) && decide (r.2.1 ≤ hi)) }
/-- And their full/empty bits full, with no mark (R141). -/
def Mem.forget (m : Mem) (lo hi e : Nat) : Mem :=
  { m.scramble lo hi e with
    empties := m.empties.filter fun c => !(decide (lo / 8 ≤ c.1) && decide (c.1 < hi / 8))
    waiters := m.waiters.filter fun c => !(decide (lo / 8 ≤ c.1) && decide (c.1 < hi / 8))
    poison := m.poison.filter fun c => !(decide (lo / 64 ≤ c.1) && decide (c.1 < hi / 64)) }

/-- Memory changed. -/
def State.modMem (s : State) (f : Mem → Mem) : State := { s with mem := f s.mem }

/-- Bytes become undefined, alone or with their sidebands. -/
def State.scramble (s : State) (lo hi : Nat) : State := { s with mem := s.mem.scramble lo hi s.free, free := s.free + 1 }
def State.forget (s : State) (lo hi : Nat) : State := { s with mem := s.mem.forget lo hi s.free, free := s.free + 1 }

/-- A context's first fresh attempt after a word wake (R169). -/
def Ctx.unpark (w : Nat) (c : Ctx) : Ctx := if c.wait = .parked w then { c with wait := .none_, feTries := 0 } else c

/-- A word wake: every context parked on the word returns to the rotation (R169). -/
def State.wordWake (s : State) (w : Nat) : State :=
  { s with cores := s.cores.map fun c => (c.1, { c.2 with ctxs := c.2.ctxs.map fun x => (x.1, x.2.unpark w) }) }

/-- A write or fe change of the word that holds k, whose waiter bit is set, clears it and sends the wake (R169). -/
def State.touchWord (s : State) (k : Nat) : State :=
  if keyHasFe k && s.mem.waiter k then (s.modMem fun m => m.setWaiter k false).wordWake (k / 8) else s

/-- The bulkheads that may hold watchers of a line: its home, or for a host line each partition's proxy home (R144). -/
def State.lineHomes (s : State) (line : Nat) : List Nat :=
  let k := 64 * line
  if keyHasFe k then [keyBulk k]
  else if isHostKey k then
    s.runningParts.map fun p => (s.part p).bulkOf (((k - 2 ^ 64) / 512 % 64) % (s.part p).n)
  else []

/-- The proxy home of a host line in partition p: its bulkhead (R144). -/
def Part.proxyHome (p : Part) (hpa : Nat) : Nat := p.bulkOf (hpa / 512 % 64 % p.n)

/-- The directory entry that serves a key: that of its 512-byte block, or at a proxy home that of its line, since the lines of a
block have their homes in eight slices (R144, R149). -/
def dirKey (k : Nat) : Nat := if isHostKey k then k / 64 else k / 512
/-- A directory entry. -/
def Bulk.dirOf (b : Bulk) (d : Nat) : Dir := fget Dir.empty b.dir d
def State.modDir (s : State) (b d : Nat) (f : Dir → Dir) : State :=
  s.modBulk b fun x => { x with dir := fset Dir.empty x.dir d (f (x.dirOf d)) }

/-- The watchers recorded for a line at a home: inline and in the watch table (R156). -/
def Bulk.watchers (b : Bulk) (line : Nat) : List Watcher :=
  (((b.dirOf (dirKey (64 * line))).inl.filter fun w => w.1 == line % 8).map fun w => w.2) ++
  ((b.watchTab.filter fun w => w.1 == line).map fun w => w.2)

/-- Index of the coarse filter (R158): bits [17:6] XOR bits [29:18] of the line address: a DPA, a host address, or an address in
the tarn window (R143, R156). -/
def coarseIdx (a : Nat) : Nat := (a / 64 % 4096) ^^^ (a / 2 ^ 18 % 4096)
/-- The line address of a key as the filter of its home bulkhead takes it (R158). -/
def State.coarseAddr (s : State) (b k : Nat) : Nat :=
  let p := s.part ((s.partOf b).getD 48)
  if isDevKey k then p.keyDpa k
  else if isTarnKey k then p.flatCl ((k - 2 ^ 48) / 2 ^ 22) * 2 ^ 23 + (k - 2 ^ 48) % 2 ^ 22
  else k - 2 ^ 64

/-- A watcher's record removed at a home (R156). -/
def State.dropWatcher (s : State) (b line : Nat) (w : Watcher) : State :=
  let s := s.modDir b (dirKey (64 * line)) fun d => { d with inl := d.inl.filter fun x => !(x.1 == line % 8 && x.2 == w) }
  s.modBulk b fun x => { x with watchTab := x.watchTab.filter fun y => !(y.1 == line && y.2 == w) }

/-- An armed gate entry fires (R243, R244): in its list, or in the saved image of its VF (R246). -/
def fireGate (id n : Nat) (gs : List Gate) : List Gate :=
  gs.map fun g => if g.id = id ∧ g.fired = none then { g with fired := some n } else g
def State.fireGateAt (s : State) (u id : Nat) : State :=
  let n := (s.unit u).gateSeq
  let s := s.modUnit u fun x => { x with gates := fireGate id n x.gates, gateSeq := n + 1 }
  { s with parts := s.parts.map fun p => (p.1, { p.2 with savedVfs := p.2.savedVfs.map fun v =>
      { v with units := v.units.map fun x => if x.1 = u then (u, { x.2 with gates := fireGate id n x.2.gates }) else x } }) }
/-- The counter word of an armed gate (R243). -/
def State.gateCounter (s : State) (u id : Nat) : Option Nat :=
  let saved := s.parts.flatMap fun p => p.2.savedVfs.flatMap fun v => (fget Clus.empty v.units u).gates
  (((s.unit u).gates ++ saved).find? fun g => g.id == id).map fun g => g.counter

/-- What the home does for one watcher of a written line: a wake (R260), or the evaluation of a gate (R243). -/
def State.watcherAct (s : State) (b line k n : Nat) (w : Watcher) : State :=
  match w with
  | .thread t num => s.hit t num
  | .gate u id =>
    match s.gateCounter u id with
    | none => s
    | some c =>
      if decide (c < k + n) && decide (k < c + 8) && s.mem.num c 8 == 0
      then (s.fireGateAt u id).dropWatcher b line (.gate u id) else s

/-- Entry number of the gate a watcher names (R244). -/
def State.watcherIdx (s : State) (w : Watcher) : Nat :=
  match w with
  | .thread _ _ => 0
  | .gate u id =>
    let saved := s.parts.flatMap fun p => p.2.savedVfs.flatMap fun v => (fget Clus.empty v.units u).gates
    ((((s.unit u).gates ++ saved).find? fun g => g.id == id).map fun g => g.idx).getD 0
/-- Watchers in the order in which they are served: gates that fire in one step by their entry number (R244). -/
def insWatcher (f : Watcher → Nat) (w : Watcher) : List Watcher → List Watcher
  | [] => [w]
  | x :: l => if f w < f x then w :: x :: l else x :: insWatcher f w l
def State.orderWatchers (s : State) (l : List Watcher) : List Watcher := l.foldl (fun a w => insWatcher s.watcherIdx w a) []

/-- What a home does after a qualifying write of n bytes at k to one of its lines (R157, R158). -/
def State.lineWritten (s : State) (b line k n : Nat) : State :=
  let s := (s.orderWatchers ((s.bulk b).watchers line)).foldl (fun s w => s.watcherAct b line k n w) s
  if fget false (s.bulk b).coarse (coarseIdx (s.coarseAddr b (64 * line))) then s.coarseHit b else s

/-- A queue slot that waited for a notify goes on after a write to the TAIL word of its queue (R277, R280). -/
def State.tailWritten (s : State) (k n : Nat) : State :=
  { s with parts := s.parts.map fun p =>
      if (p.2.slots.any fun x => x.2.idle) && isDevKey k then
        let base := (fget 0#64 s.pf (pfKey (partBase p.1 + 0x60))).toNat
        (p.1, { p.2 with slots := p.2.slots.map fun x => match x.2.queue with
          | some q =>
            let t := p.2.dpaKey (base + 64 * q + 0x18)
            if k < t + 8 ∧ t < k + n then (x.1, { x.2 with idle := false }) else x
          | none => x })
      else p }

/-- Everything that follows a write of n bytes at k (R157, R169, R243, R277). -/
def State.written (s : State) (k n : Nat) : State :=
  if n = 0 then s else
  let s := (List.range ((k + n - 1) / 8 + 1 - k / 8)).foldl (fun s i => s.touchWord (8 * (k / 8 + i))) s
  let s := s.tailWritten k n
  (List.range ((k + n - 1) / 64 + 1 - k / 64)).foldl (fun s i =>
    let line := k / 64 + i
    (s.lineHomes line).foldl (fun s b => s.lineWritten b line k n) s) s

/-- The one write of memory: bytes at a key, with their poison, and all that follows a write. -/
def State.writeMem (s : State) (k : Nat) (bs : List Byte) (poison : Bool) : State :=
  (s.modMem fun m => m.store k bs poison).written k bs.length
/-- A good n-byte number written. -/
def State.writeNum (s : State) (k n x : Nat) : State := s.writeMem k (leBytes n x) false
/-- A 64-bit word written. -/
def State.writeWord (s : State) (k : Nat) (x : Word) : State := s.writeNum k 8 x.toNat
/-- A 64-byte block written. -/
def State.writeBlock (s : State) (k : Nat) (x : Vec) (poison : Bool) : State := s.writeMem k (leBytes 64 x.toNat) poison

/-- One bit of the CRC-32C of RFC 3720 (R354), its polynomial reflected. -/
def crcBit (c : BitVec 32) : BitVec 32 := (c >>> 1) ^^^ (0x82F63B78#32 * (c &&& 1#32))
def crcByte (c : BitVec 32) (b : Byte) : BitVec 32 :=
  crcBit (crcBit (crcBit (crcBit (crcBit (crcBit (crcBit (crcBit (c ^^^ b.setWidth 32))))))))
/-- A carry check (R354): the CRC-32C of bytes, the register all ones before them and inverted after them. -/
def crc32c (bs : List Byte) : BitVec 32 := ~~~ (bs.foldl crcByte 0xffffffff#32)
/-- Grain of the page of a device-memory key, as slice 0 holds it (R147, R148). -/
def State.grainOf (s : State) (k : Nat) : Nat := (fget 0#2 (s.bulk (keyBulk k)).grain (8 * (k % 2 ^ 34 / 65536))).toNat
/-- Bytes of a unit (R147): 128, 32 or 512. -/
def grainBytes (g : Nat) : Nat := if g = 1 then 32 else if g = 2 then 512 else 128
/-- First key of the unit that holds k. -/
def State.unitOf (s : State) (k : Nat) : Nat := let n := grainBytes (s.grainOf k); k / n * n
/-- The first keys of the units that n bytes from k touch. -/
def State.unitsOf (s : State) (k n : Nat) : List Nat := ((List.range (n / 32 + 2)).map fun i => s.unitOf (k + min (32 * i) (n - 1))).eraseDups

/-- The L1 state of a unit in a core (R150). -/
def State.l1Get (s : State) (core unit : Nat) : L1State := fget .i (s.core core).l1 unit
def State.l1Set (s : State) (core unit : Nat) (x : L1State) : State :=
  s.modCore core fun c => { c with l1 := fset .i c.l1 unit x }
/-- The HBM channel of an offset in a bulkhead's device memory (R144). -/
def channelOf (o : Nat) : Nat := (o / 2 ^ 9 % 8) ^^^ (o / 2 ^ 12 % 8) ^^^ (o / 2 ^ 15 % 8)
/-- The slice that homes the entry d of a directory: a device block's channel, a host line's bits [8:6] (R144). -/
def sliceOf (d : Nat) : Nat := if isHostKey (64 * d) then d % 8 else channelOf (512 * d % 2 ^ 34)
/-- Sets of a slice of bulkhead b: 2,912 KiB of 16 ways of 512 bytes, 2,880 KiB in the rank-0 bulkhead (R141, R142). -/
def State.l2Sets (s : State) (b : Nat) : Nat :=
  match s.partOf b with
  | some p => if (s.part p).rank b = 0 then 360 else 364
  | none => 364
/-- Two entries share a set of a slice (R156; the function is the device's, log 12). -/
def State.sameSet (s : State) (b d e : Nat) : Bool :=
  sliceOf d == sliceOf e && Config.l2Set d % s.l2Sets b == Config.l2Set e % s.l2Sets b
/-- The L2 of a home holds the block of an entry, or has a free way for it (R141). -/
def State.l2Room (s : State) (b d : Nat) : Bool :=
  let m := (s.bulk b).dir
  m.any (fun x => x.1 == d) || decide (m.length < 16) || decide ((m.filter fun x => s.sameSet b x.1 d).length < 16)
/-- The resident index of the VF that runs in the partition of bulkhead b, if one runs (R283). -/
def State.runningRix (s : State) (b : Nat) : Option (BitVec 2) :=
  (s.partOf b).bind fun p => (s.part p).running.map fun v => BitVec.ofNat 2 (vfRix (s.vfEntry p v))
/-- A line is watched at its proxy home: by a record, or coarsely (R157, R158, R243). -/
def State.watchedLine (s : State) (b line : Nat) : Bool :=
  !((s.bulk b).watchers line).isEmpty || s.cores.any fun c => c.2.watches.any fun d => d.coarse && d.line == line && d.home == b
/-- The ways that a slice may evict for a block (R156, R283): no inline watcher, no host bit, no watched host line (R157); blocks not tagged with the running
VF's index first, and among them clean ones. -/
def State.l2Victims (s : State) (b d : Nat) : List Nat :=
  let l := (s.bulk b).dir.filter fun x => s.sameSet b x.1 d && x.2.inl.isEmpty && x.2.hc == 0#8 &&
    !(isHostKey (64 * x.1) && s.watchedLine b x.1)
  let other := l.filter fun x => some x.2.vfTag != s.runningRix b
  let clean := other.filter fun x => !x.2.dirty
  (if !clean.isEmpty then clean else if !other.isEmpty then other else l).map fun x => x.1
/-- A block leaves the L2 of bulkhead b, and with it every copy in an L1; a host line leaves its proxy home (R150, log 81). -/
def State.l2Evict (s : State) (b d : Nat) : State :=
  let host := isHostKey (64 * d)
  let own (c : Nat) : Bool := !host || s.partOf (c / 32) == s.partOf b
  let cores := s.cores.map fun (c : Nat × Core) =>
    if own c.1 then (c.1, { c.2 with l1 := c.2.l1.filter fun x => dirKey x.1 != d }) else c
  let proxy := if host then fdel s.proxy (proxyKey ((s.partOf b).getD 48) (d - 2 ^ 58)) else s.proxy
  { s with cores := cores, proxy := proxy }.modBulk b fun x => { x with dir := fdel x.dir d }
/-- A way is made free for a block: the device chooses among the ways it may evict (log 11). -/
def State.l2Make (s : State) (b d : Nat) : State :=
  if s.l2Room b d then s
  else
    let l := s.l2Victims b d
    if l.isEmpty then s
    else { s.l2Evict b (l.getD (Config.freeNat s.free % l.length) 0) with free := s.free + 1 }
/-- The 32-byte sectors of n bytes from k in their block (R149). -/
def sectorMask (k n : Nat) : BitVec 16 := BitVec.ofNat 16 ((2 ^ ((k % 512 + n + 31) / 32) - 1) / 2 ^ (k % 512 / 32) * 2 ^ (k % 512 / 32))
/-- Sectors of n bytes from k are valid in the L2 of their home (R149); with every way kept the block stays uncached. -/
def State.l2Fill (s : State) (b k n : Nat) (dirty : Bool) : State :=
  let s := s.l2Make b (dirKey k)
  if s.l2Room b (dirKey k) then
    s.modDir b (dirKey k) fun d => { d with sectors := d.sectors ||| sectorMask k n, dirty := d.dirty || dirty }
  else s

/-- 512-byte blocks of an L1, and those in the set of a block: 8 ways, 16 sets (R141; the set is log 12). -/
def Core.l1Blocks (c : Core) : List Nat := (c.l1.map fun x => x.1 / 512).eraseDups
def Core.l1Ways (c : Core) (blk : Nat) : List Nat := c.l1Blocks.filter fun x => Config.l1Set x % 16 == Config.l1Set blk % 16
/-- An L1 can take the unit: its cluster is not gated (R153), and its tag block is held or its set has a free way (R141). -/
def State.l1Room (s : State) (core unit : Nat) : Bool :=
  let c := s.core core
  !(s.unit (coreUnit core)).gated &&
  (c.l1Blocks.contains (unit / 512) || decide (c.l1Blocks.length < 8) || decide ((c.l1Ways (unit / 512)).length < 8))

/-- The sharers of a unit with one more: up to four pointers, then the bulkhead vector (R150). -/
def Dir.share (d : Dir) (unit core : Nat) : Dir :=
  let l := fget [] d.sharers unit
  if l.contains core then d
  else if l.length < 4 ∧ fget 0#48 d.many unit = 0#48 then { d with sharers := fput d.sharers unit (l ++ [core]) }
  else
    let v := (core :: l).foldl (fun v c => v ||| BitVec.ofNat 48 (2 ^ (c / 32))) (fget 0#48 d.many unit)
    { d with many := fput d.many unit v, sharers := fput d.sharers unit [] }

/-- A unit's copies invalidated in every core but one (R150, R151). -/
def State.l1Drop (s : State) (unit : Nat) (but : Option Nat) : State :=
  { s with cores := s.cores.map fun c => if some c.1 = but then c else (c.1, { c.2 with l1 := fdel c.2.l1 unit }) }

/-- The directory forgets a unit. -/
def Dir.forget (d : Dir) (unit : Nat) : Dir :=
  { d with owner := fdel d.owner unit, sharers := fdel d.sharers unit, many := fdel d.many unit }

/-- A unit of an L1 after another core's read: M becomes O, E becomes S (R150). -/
def l1Share (l1 : FMap L1State) (unit : Nat) : FMap L1State :=
  match fget .i l1 unit with
  | .m => fput l1 unit .o
  | .e => fput l1 unit .s
  | _ => l1

/-- The cores among some that hold a unit in a state. -/
def State.holders (s : State) (among : Nat → Bool) (unit : Nat) (x : L1State) : List Nat :=
  s.cores.filterMap fun c => if among c.1 && fget .i c.2.l1 unit == x then some c.1 else none
/-- Copies that were E or O and are S now are sharers in the directory (R150). -/
def Dir.demote (d : Dir) (unit : Nat) (l : List Nat) : Dir :=
  l.foldl (fun d k => d.share unit k) { d with owner := if l.isEmpty then d.owner else fdel d.owner unit }
/-- The home of a unit for the partition of a core (R144): of device memory its own, of a host line the proxy home. -/
def State.l1Home (s : State) (core unit : Nat) : Nat :=
  if isHostKey unit then (s.part ((s.partOf (core / 32)).getD 48)).proxyHome (unit - 2 ^ 64) else keyBulk unit
/-- Bytes of a unit by its first key: a host line, or a unit of its page's grain (R147, R149). -/
def State.unitLen (s : State) (unit : Nat) : Nat := if isHostKey unit then 64 else grainBytes (s.grainOf unit)
/-- A core's copy of a unit leaves its L1, a dirty one written home, and the directory forgets it (R150, R153). -/
def State.l1Leave (s : State) (core unit : Nat) : State :=
  let x := s.l1Get core unit
  let b := s.l1Home core unit
  let s := s.modCore core fun c => { c with l1 := fdel c.l1 unit }
  let s := if x = .m ∨ x = .o then s.l2Fill b unit (s.unitLen unit) true else s
  s.modDir b (dirKey unit) fun d =>
    { d with
      owner := if fget 0 d.owner unit = core then fdel d.owner unit else d.owner
      sharers := fset [] d.sharers unit ((fget [] d.sharers unit).filter fun c => c ≠ core) }
/-- A core writes a dirty copy back and keeps it clean (R178): M becomes E, O becomes S; its home holds the data. -/
def State.l1Clean (s : State) (core unit : Nat) : State :=
  let b := s.l1Home core unit
  match s.l1Get core unit with
  | .m => (s.l1Set core unit .e).l2Fill b unit (s.unitLen unit) true
  | .o =>
    ((s.l1Set core unit .s).l2Fill b unit (s.unitLen unit) true).modDir b (dirKey unit) fun d => d.demote unit [core]
  | _ => s
/-- A full set of an L1 evicts a block that the device chooses (R141, log 11). -/
def State.l1Make (s : State) (core unit : Nat) : State :=
  if s.l1Room core unit || (s.unit (coreUnit core)).gated then s
  else
    let l := (s.core core).l1Ways (unit / 512)
    let v := l.getD (Config.freeNat s.free % l.length) 0
    let us := ((s.core core).l1.filter fun x => x.1 / 512 == v).map fun x => x.1
    us.foldl (fun s u => s.l1Leave core u) { s with free := s.free + 1 }

/-- The save engine of a gang switch owns a unit no longer (R154). -/
def State.unsave (s : State) (b unit : Nat) : State :=
  if (s.bulk b).saving.isEmpty then s else s.modBulk b fun x => { x with saving := fdel x.saving unit }
/-- A core among some reads a unit homed in bulkhead b (R150, R151): E when no one holds it, else S, an owner in M or O
keeping the dirty copy in O, an E copy becoming S. `shared` allows no E. The save engine answers a unit it owns from its buffer,
which holds the newest data (R154). -/
def State.cohReadIn (s : State) (among : Nat → Bool) (b core unit : Nat) (shared : Bool) : State :=
  if s.l1Get core unit ≠ .i then s
  else
    let s := (s.l1Make core unit).l2Fill b unit (s.unitLen unit) false
    let held := shared || (s.cores.any fun c => among c.1 && fget .i c.2.l1 unit != .i) || fget false (s.bulk b).saving unit
    let es := s.holders among unit .e
    let read (c : Nat × Core) : Nat × Core := if among c.1 then (c.1, { c.2 with l1 := l1Share c.2.l1 unit }) else c
    let s := { s with cores := s.cores.map read }
    let s := s.modDir b (dirKey unit) fun d => d.demote unit es
    if s.l1Room core unit && s.l2Room b (dirKey unit) then
      let s := s.l1Set core unit (if held then .s else .e)
      s.modDir b (dirKey unit) fun d => if held then d.share unit core else { d with owner := fput d.owner unit core }
    else s
/-- A home serves a core's read of a unit of device memory. -/
def State.cohRead (s : State) (core unit : Nat) : State := s.cohReadIn (fun _ => true) (keyBulk unit) core unit false

/-- The resident index of a VF (R283). -/
def State.rixOf (s : State) (p vf : Nat) : BitVec 2 := BitVec.ofNat 2 (vfRix (s.vfEntry p vf))
/-- The VF tag of the L2's copy of a block, if it holds it (R149). -/
def State.setTag (s : State) (b d : Nat) (x : BitVec 2) : State :=
  if s.l2Room b d then s.modDir b d fun y => { y with vfTag := x } else s
/-- A write of n bytes by VF vf of partition p to the home's copies of blocks of device memory: their units' sectors valid and dirty,
their VF tag the resident index of the VF (R149, R283). -/
def State.tagBlock (s : State) (k p vf n : Nat) : State :=
  let b := keyBulk k
  (s.unitsOf k n).foldl (fun s u => (s.l2Fill b u (s.unitLen u) true).setTag b (dirKey u) (s.rixOf p vf)) s

/-- A home grants a core ownership of a unit for a store (R150): every other copy is invalidated. -/
def State.cohOwn (s : State) (core unit : Nat) : State :=
  let b := keyBulk unit
  let s := (((s.l1Drop unit (some core)).unsave b unit).l1Make core unit).l2Fill b unit (s.unitLen unit) false
  let s := s.modDir b (dirKey unit) fun d => d.forget unit
  if s.l1Room core unit && s.l2Room b (dirKey unit) then
    (s.l1Set core unit .m).modDir b (dirKey unit) fun d => { d with owner := fput d.owner unit core }
  else s.l1Drop unit none

/-- A home takes back every copy of a unit (R151, R171): an access performed at the home. -/
def State.cohRecall (s : State) (unit : Nat) : State :=
  let b := keyBulk unit
  let dirty := s.cores.any fun c => fget .i c.2.l1 unit == .m || fget .i c.2.l1 unit == .o
  let s := if dirty then s.l2Fill b unit (s.unitLen unit) true else s
  ((s.l1Drop unit none).unsave b unit).modDir b (dirKey unit) fun d => d.forget unit

/-- A line of the unit has its host bit set (R352). -/
def State.hcLines (s : State) (k n : Nat) : List Nat :=
  (List.range ((k + n - 1) / 64 + 1 - k / 64)).filterMap fun i =>
    let line := k / 64 + i
    if (((s.bulk (keyBulk k)).dirOf (dirKey (64 * line))).hc).getLsbD (line % 8) then some line else none

/-- Whether a grant must wait for a back-invalidation (R352): an ownership request while HC is set; a shared request
unless the host has answered that it keeps only a shared copy. -/
def State.biNeeds (s : State) (k n : Nat) (own : Bool) : List Nat :=
  (s.hcLines k n).filter fun l => own || fget 0 (s.bulk (keyBulk k)).bisnp l != 3

/-- The back-invalidations sent for lines of the bulkhead of a key (R352). -/
def State.biSend (s : State) (k : Nat) (ls : List Nat) (own : Bool) : State :=
  s.modBulk (keyBulk k) fun b =>
    { b with bisnp := ls.foldl (fun m l => fput m l (if own || fget 0 m l == 2 then 2 else 1)) b.bisnp }
/-- One of the device's own units writes n bytes at k at once: for a line with its host bit set BISnpInv is sent, and the dirty data
that it brings does not overwrite these bytes (R352, log 104). -/
def State.biTake (s : State) (k n : Nat) : State :=
  let ls := s.hcLines k n
  if ls.isEmpty then s
  else (s.biSend k ls true).modBulk (keyBulk k) fun b =>
    { b with biOver := ls.map (fun l => (max k (64 * l), min (k + n) (64 * l + 64))) ++ b.biOver }

/-- Every copy of the units of n bytes at a device key is recalled for a write at the home (R151). -/
def State.recallAll (s : State) (k n : Nat) : State := (s.unitsOf k n).foldl State.cohRecall s
/-- A write at the home of device memory by one of the device's own units, for VF vf of partition p (R149, R151, R352). -/
def State.unitStore (s : State) (k p vf : Nat) (bs : List Byte) : State :=
  (((s.recallAll k bs.length).biTake k bs.length).tagBlock k p vf bs.length).writeMem k bs false

/-- An entry of bulkhead b's violation log, and the notify word (R322). -/
def State.vlogAppend (s : State) (b addr cause src unit : Nat) : State :=
  match s.partOf b with
  | none => s
  | some p =>
    let e : BitVec 128 := BitVec.ofNat 128
      (addr % 2 ^ 64 + (cause % 256 + src % 256 * 256 + unit % 65536 * 65536 + s.tsOf p % 2 ^ 32 * 2 ^ 32) * 2 ^ 64)
    let s := s.modBulk b fun x => { x with vlog := fput x.vlog (x.vcount.toNat % 64) e, vcount := x.vcount + 1#32 }
    let a := (s.desc p 0x90).toNat
    if a = 0 then s else s.unitStore ((s.part p).dpaKey a) p (s.part p).homeVf (leBytes 8 (s.bulk b).vcount.toNat)

/-- The check created of the block that holds k, and held with it in the L2 and the HBM sideband (R354): a function of its bytes, so it
changes with every write of them (log 70). -/
def Mem.check (m : Mem) (k : Nat) : BitVec 32 := crc32c (m.bytes (k / 64 * 64) 64)
/-- The bulkhead at which a hop of a block is logged for a core of partition p, and the address of its entry: an offset in the partition's
memory or in the tarn, a host line's address, or a DPA of a remote partition (R322, R355, log 70). -/
def State.hopAt (s : State) (p core k : Nat) : Nat × Nat :=
  let a := k / 64 * 64
  if isDevKey k then (keyBulk k, (s.part p).keyDpa a)
  else if isTarnKey k then (keyBulk k, a % 2 ^ 22)
  else if isHostKey k then ((s.part p).proxyHome (a - 2 ^ 64), a - 2 ^ 64)
  else (core / 32, a % 2 ^ 40)
/-- A verification of the block that holds k (R355), with the check that arrives with it: one that fails, and is not poisoned already, is
poisoned and logged with cause 6. -/
def State.verifyBlock (s : State) (p core k : Nat) (check : BitVec 32) (source unit : Nat) : State :=
  if s.mem.poisoned k 1 || s.mem.check k == check then s
  else (s.modMem fun m => m.setPoison (k / 64) true).vlogAppend (s.hopAt p core k).1 (s.hopAt p core k).2 6 source unit

end Sys2Proof.Machine
end

