-- ==== Sys2Proof/Machine/Xlat.lean ====
section
/-! DEFINITION. Addresses: the address map (R143, R144), translation with its requests (R329-R333), windows to other
partitions and packages (R341, R342, R357), and the ordered checks of every access (R160). -/

namespace Sys2Proof.Machine

/-- For whom an access is made. -/
structure Agent where
  part : Nat
  vf : Nat
  /-- bulkhead that translates (R409) -/
  bulk : Nat
  /-- unit whose tarn the near alias names -/
  unit : Nat
  deep : Bool
  engine : Bool
  tid : W32
  holder : Holder
  deriving DecidableEq, Repr

/-- What R160 asks of an access. `write` asks write permission (R330). -/
structure Acc where
  n : Nat
  align : Nat
  write : Bool
  fe : Bool
  amo : Bool
  vec : Bool
  deriving DecidableEq, Repr

/-- Plain loads and stores of n bytes, vector accesses, and a 64-byte line. -/
def Acc.load (n : Nat) : Acc := { n := n, align := n, write := false, fe := false, amo := false, vec := false }
def Acc.store (n : Nat) : Acc := { Acc.load n with write := true }
def Acc.vload (n : Nat) : Acc := { Acc.load n with vec := true }
def Acc.vstore (n : Nat) : Acc := { Acc.store n with vec := true }
def Acc.atomic (n : Nat) : Acc := { Acc.store n with amo := true }
/-- Checks without an access: no alignment. -/
def Acc.probe : Acc := { Acc.load 1 with vec := true }
/-- The same for a line that will be stored to. -/
def Acc.wprobe : Acc := { Acc.probe with write := true }

/-- The outcome of a translation. -/
inductive Xres
  | ok (p : Place)
  | fault (code : Nat) (detail : Word)
  /-- a translation request is outstanding -/
  | ats
  /-- a page request is outstanding: PAGE_WAIT -/
  | page
  deriving DecidableEq, Repr

/-- The outcome of the checks of R160; `bi` waits for a back-invalidation (R352). -/
inductive Ares
  | ok (p : Place)
  | fault (code : Nat) (detail : Word)
  | ats
  | page
  | bi
  deriving DecidableEq, Repr

/-- A physical address lies in the aperture of partition p (R324). -/
def State.inAperture (s : State) (p pa : Nat) : Bool :=
  let a := (s.desc p 0x18).toNat
  decide (a ≤ pa) && decide (pa < a + (s.part p).n * 2 ^ 34)
/-- The partition whose aperture holds a physical address that partition p uses (R329): p itself, or another that runs. -/
def State.apertureOf (s : State) (p pa : Nat) : Option Nat :=
  if s.inAperture p pa then some p else s.runningParts.find? fun q => s.inAperture q pa

/-- Offset of remote window w of partition p (R357). -/
def rwOff (p w : Nat) : Nat := partBase p + 0x800 + 32 * w

/-- The class of a physical page (R329, R331): the other running partition whose aperture holds it. -/
def State.pageClass (s : State) (p ppage : Nat) : Option Nat :=
  match s.apertureOf p (ppage * 65536) with
  | some q => if q = p then none else some q
  | none => none

/-- Offset in the memory of partition q of a physical address; one outside its aperture lies in no window. -/
def State.windowDpa (s : State) (q pa : Nat) : Nat :=
  if s.inAperture q pa then pa - (s.desc q 0x18).toNat else 2 ^ 62

/-- Where a physical address of class `win` leads for partition p (R329, R342, R357). The remote aperture is BAR4,
64 TiB. -/
def State.classify (s : State) (p : Nat) (win : Option Nat) (pa : Nat) : Option Place :=
  if s.inAperture p pa then some (.mem ((s.part p).dpaKey (pa - (s.desc p 0x18).toNat)))
  else match win with
  | some q => some (.window q (s.windowDpa q pa))
  | none =>
    if s.bar4 ≤ pa ∧ pa < s.bar4 + 2 ^ 46 then
      let i := (pa - s.bar4) / 2 ^ 36
      let o := (pa - s.bar4) % 2 ^ 36
      let e := s.pfGet (rwOff p (i % 16))
      let x := s.pfGet (rwOff p (i % 16) + 8)
      if i / 16 = p ∧ e.getLsbD 0 = true ∧ e.getLsbD 2 = false ∧ o < bitsOf x 24 24 * 65536
      then some (.remote (i % 16) (bitsOf x 0 24 * 65536 + o)) else none
    else some (.mem (hostKey pa))

/-- The tag of a PASID (R331). -/
def Part.tagOf (p : Part) (pasid : Nat) : Option Tag := p.tags.find? fun t => t.pasid == pasid

/-- A tag's use noted, for the least-recently-used order (R331). -/
def State.useTag (s : State) (p pasid : Nat) : State :=
  s.modPart p fun x => { x with tags := x.tags.map fun t => if t.pasid = pasid then { t with used := s.ts } else t }

/-- The cache entry for a page with the needed permission (R330, R331). -/
def Bulk.lookup (b : Bulk) (tag vpage : Nat) (write : Bool) : Option TlbEntry :=
  b.tlb.find? fun e => e.tag == tag && decide (e.vpage ≤ vpage) && decide (vpage < e.vpage + e.pages) &&
    (if write then e.w else e.r)

/-- A request that an access may join (R332). -/
def PageReq.serves (q : PageReq) (pasid vpage : Nat) (write : Bool) : Bool :=
  q.pasid == pasid && q.vpage == vpage && (q.write || !write)

/-- A holder joins request q (R332). -/
def PageReq.join (q : PageReq) (h : Holder) (va : Word) (r : PageReq) : PageReq :=
  if r = q && !(r.holders.contains h) then { r with holders := r.holders ++ [h], asked := r.asked ++ [(h, va)] } else r

/-- An UNWATCH (R259), a record (R317) and a TSTART (R309) do not wait for a page request. -/
def Holder.asksNoPage : Holder → Bool
  | .unwatch _ _ => true
  | .record _ _ => true
  | .tstart _ _ => true
  | _ => false

/-- A drain row and the scanner ask for several pages: their refusals stay until the row or the scan ends (R226, R337). -/
def Holder.keepsRefusal : Holder → Bool
  | .drain _ => true
  | .scan _ => true
  | _ => false

/-- An access joins or sends a translation request (R330, R332). -/
def State.request (s : State) (g : Agent) (pasid : Nat) (va : Word) (write : Bool) : Xres × State :=
  let vpage := va.toNat / 65536
  match (s.bulk g.bulk).reqs.find? fun q => q.serves pasid vpage write with
  | some q =>
    if q.st ≠ 0 && g.holder.asksNoPage then (.page, s)
    else (if q.st = 1 then .page else .ats,
     s.modBulk g.bulk fun b => { b with reqs := b.reqs.map (PageReq.join q g.holder va) })
  | none =>
    (.ats, s.modBulk g.bulk fun b => { b with reqs := b.reqs ++
      [{ pasid := pasid, vpage := vpage, write := write, st := 0, stale := false, holders := [g.holder],
         asked := [(g.holder, va)], port := 0 }] })

/-- A translated address (R329, R330): a refusal recorded for this access, a cache entry, or a request. -/
def State.translate (s : State) (g : Agent) (write : Bool) (va : Word) : Xres × State :=
  let pasid := s.pasid g.part g.vf
  let vpage := va.toNat / 65536
  match (s.bulk g.bulk).refused.find? fun r =>
      r.holder = g.holder && r.pasid == pasid && r.vpage == vpage && (write || !r.write) with
  | some r => (.fault r.code r.detail, if g.holder.keepsRefusal then s else
      s.modBulk g.bulk fun b => { b with refused := b.refused.filter fun x => x ≠ r })
  | none =>
    match (s.part g.part).tagOf pasid with
    | none => s.request g pasid va write
    | some t =>
      match (s.bulk g.bulk).lookup t.tag vpage write with
      | none => s.request g pasid va write
      | some e =>
        let s := s.useTag g.part pasid
        match s.classify g.part e.win ((e.ppage + (vpage - e.vpage)) * 65536 + va.toNat % 65536) with
        | some p => (.ok p, s)
        | none => (.fault 0x16 0#64, s)

/-- An address in the untranslated region (R143). -/
def untranslated (va : Word) : Bool := decide (0xfffc000000000000 ≤ va.toNat)
/-- An address in the near-tarn alias (R143). -/
def nearAlias (va : Word) : Bool := decide (0xffff000000000000 ≤ va.toNat) && decide (va.toNat < 0xffff000000400000)

/-- Where an untranslated address leads, if it lies in a window usable for the access (R143); its alignment is another check (R160). -/
def State.window (s : State) (g : Agent) (a : Acc) (va : Word) : Option Place :=
  let x := va.toNat % 2 ^ 48
  let n := (s.part g.part).n
  match va.toNat / 2 ^ 48 with
  | 0xfffd =>
    if x < 65536 * n ∧ a.fe = false ∧ a.amo = false ∧ a.vec = false ∧ g.engine = false ∧
      (a.write = false ∨ g.deep = true) then some (.grain x) else none
  | 0xfffe =>
    let fc := x / 2 ^ 23
    let o := x % 2 ^ 23
    if fc < 6 * n ∧ o < 2 ^ 22 then some (.mem (tarnKey ((s.part g.part).clOfFlat fc) o)) else none
  | 0xffff => if x < 2 ^ 22 ∧ g.deep = false then some (.mem (tarnKey g.unit x)) else none
  | _ => none

/-- A near-alias address resolved to the tarn window of a cluster (R181, R231). -/
def State.resolveNear (s : State) (p unit : Nat) (va : Word) : Word :=
  if nearAlias va then
    BitVec.ofNat 64 (0xfffe000000000000 + (s.part p).flatCl unit * 2 ^ 23 + va.toNat % 2 ^ 23)
  else va

/-- Key of the save area of a VF in the memory of rank r (R289). -/
def Part.saveKey (p : Part) (base rix r : Nat) : Nat := p.dpaKey (base + (rix * p.n + r) * 2 ^ 22)
/-- The sealed pages (keys / 65536): of code ranges and their bitmaps (R52, R337) and of save areas (R289). -/
def State.sealed (s : State) (k : Nat) : Bool :=
  (List.range 48).any fun n =>
    let p := s.part n
    (p.ranges.any fun r => r.pages.contains (k / 65536) || r.bmPages.contains (k / 65536)) ||
    (match p.scan with | none => false | some c => c.pages.contains (k / 65536) || c.bmPages.contains (k / 65536)) ||
    (p.savedVfs.any fun v =>
      (List.range p.n).any fun r =>
        let a := p.saveKey (s.desc n 0x88).toNat (vfRix (s.vfEntry n v.vf)) r
        decide (a ≤ k) && decide (k < a + 2 ^ 22))

/-- A window entry of the exporter admits an access (R341). -/
def State.windowAdmits (s : State) (exp imp dpa : Nat) (write : Bool) : Bool :=
  (List.range 8).any fun w =>
    let e := s.pfGet (partBase exp + 0x100 + 16 * w)
    let x := s.pfGet (partBase exp + 0x100 + 16 * w + 8)
    e.getLsbD 0 && (!write || e.getLsbD 1) && bitsOf e 8 6 == imp &&
      decide (bitsOf x 0 24 ≤ dpa / 65536) && decide (dpa / 65536 < bitsOf x 0 24 + bitsOf x 24 24) &&
      (s.part exp).dpaIn dpa 1

/-- SOURCE and UNIT of the log entry for an agent (R322): a core or an engine with its thread, the queue unit with its queue, a
cluster that decrements a launch's counter, a group fill, the scanner; a record as it says. -/
def State.logAgent (s : State) (g : Agent) : Nat × Nat :=
  let t := g.tid.toNat % 65536
  match g.holder with
  | .group _ n => (5, n)
  | .member _ n _ => (5, n)
  | .queue p i => (4, ((fget Slot.empty (s.part p).slots i).queue.getD 0) % 65536)
  | .decrement _ _ fc => (4, fc)
  | .scan _ => (6, t)
  | .record _ src => (src, t)
  | _ => (if g.engine then 1 else 0, t)
/-- An error response of the exporter is logged there (R322, R341). -/
def State.windowLog (s : State) (exp dpa : Nat) (g : Agent) : State :=
  if s.partRunning exp then
    s.vlogAppend ((s.part exp).bulkOf (min (dpa / 2 ^ 34) ((s.part exp).n - 1))) dpa 1 (s.logAgent g).1 (s.logAgent g).2
  else s

/-- A page of a device key is being changed (R148). -/
def State.grainBusy (s : State) (k : Nat) : Bool :=
  isDevKey k && (s.bulk (keyBulk k)).grainReqs.any fun r => r.page == k % 2 ^ 34 / 65536

/-- A back-invalidation is outstanding for a line of n bytes from k (R352). -/
def State.biBusy (s : State) (k n : Nat) : Bool :=
  (List.range ((k + n - 1) / 64 + 1 - k / 64)).any fun i =>
    let x := fget 0 (s.bulk (keyBulk k)).bisnp (k / 64 + i)
    x == 1 || x == 2
/-- An outside access, or a watch, of n bytes at k waits in the home queue (R151, R352). -/
def State.homeBusy (s : State) (k n : Nat) : Bool := s.biBusy k n || s.grainBusy k

/-- The lines whose back-invalidation an access of n bytes at k waits for (R352): a core is granted every unit that it overlaps, and
needs no grant to read what its L1 holds; another agent takes its own bytes. -/
def State.biGrant (s : State) (g : Agent) (k n : Nat) (write : Bool) : List Nat :=
  let core : Option Nat := match g.holder with
    | .ctx c _ => some c
    | .prod c _ _ => some c
    | _ => none
  match core with
  | none => s.biNeeds k n write
  | some c =>
    let u := s.unitOf k
    let v := s.unitOf (k + n - 1)
    if !write && s.l1Get c u != .i && s.l1Get c v != .i then [] else s.biNeeds u (v + grainBytes (s.grainOf v) - u) write

/-- A holder as it stands in a home queue; engines and units make their requests anew. -/
def State.homeWho (s : State) : Holder → Option HomeWho
  | .ctx k c => some (.ctx k c (s.ctx k c).tid (s.ctx k c).retired)
  | .prod k c pc => some (.prod k c (s.ctx k c).tid pc)
  | _ => none
/-- One that is queued still waits: its context has the same instruction before it, or the producer is still held. -/
def State.homeLive (s : State) : HomeWho → Bool
  | .ctx k c t n => let x := s.ctx k c; x.bound && x.tid == t && x.retired == n && x.stop.isNone
  | .prod k c t pc => let x := s.ctx k c; x.bound && x.tid == t && x.inflight.any fun p => p.pc == pc && p.st == .held none
  | .outside _ => true
/-- An entry of a home queue is a requester's own: an access from outside is the one that is at the home again, for equal accesses are
two requests. -/
def HomeReq.is (who : Option HomeWho) (r : HomeReq) : Bool :=
  some r.who == who && (r.sent || match r.who with | .outside _ => false | _ => true)
/-- An earlier request for a unit of keys lo to hi − 1 waits in the home queue of bulkhead b (R151). -/
def State.homeAhead (s : State) (b lo hi : Nat) (who : Option HomeWho) : Bool :=
  ((s.bulk b).homeQ.takeWhile fun r => !r.is who).any fun r => !r.served && decide (r.lo < hi) && decide (lo < r.hi) && s.homeLive r.who
/-- A request takes its place in the home queue, or keeps it. -/
def State.homeJoin (s : State) (b lo hi : Nat) : Option HomeWho → State
  | none => s
  | some w => s.modBulk b fun x =>
    let l := x.homeQ.filter fun r => s.homeLive r.who
    { x with homeQ :=
        if l.any fun r => r.is (some w) && r.lo == lo && r.hi == hi then
          l.map fun r => if r.is (some w) then { r with sent := false, served := false } else r
        else (l.filter fun r => !r.is (some w)) ++ [{ lo := lo, hi := hi, who := w, sent := false, served := false }] }
/-- A request is served. One from outside leaves the queue; an instruction's or a producer's keeps its place for its later elements, and
no other request waits behind it. -/
def State.homePass (s : State) (b : Nat) (who : Option HomeWho) : State :=
  if (s.bulk b).homeQ.isEmpty then s
  else s.modBulk b fun x =>
    { x with homeQ := match who with
      | some (.outside _) => x.homeQ.filter fun r => !r.is who
      | _ => x.homeQ.map fun r => if r.is who then { r with served := true } else r }
/-- First key of the first unit of n bytes from k, and the key past the last. -/
def State.unitsLo (s : State) (k : Nat) : Nat := if isDevKey k then s.unitOf k else k / 64 * 64
def State.unitsHi (s : State) (k n : Nat) : Nat :=
  let e := k + n - 1
  if isDevKey k then s.unitOf e + grainBytes (s.grainOf e) else e / 64 * 64 + 64
/-- A core's L1 serves the access itself: a read of units it holds, a write of units it owns. -/
def State.l1Serves (s : State) (g : Agent) (k n : Nat) (write : Bool) : Bool :=
  let core : Option Nat := match g.holder with
    | .ctx c _ => some c
    | .prod c _ _ => some c
    | _ => none
  let ok (c u : Nat) : Bool := if write then s.l1Get c u == .m || s.l1Get c u == .e else s.l1Get c u != .i
  match core with
  | none => false
  | some c => ok c (s.unitOf k) && ok c (s.unitOf (k + n - 1))
/-- An access of n bytes at a device key reaches its home (R148, R151, R352): it waits in the home queue while its page's grain changes,
while a back-invalidation is out for a line it needs (`ls`), and behind earlier requests for its units; else it passes. -/
def State.homeGate (s : State) (g : Agent) (k n : Nat) (write : Bool) (p : Place) (ls : List Nat) : Ares × State :=
  let who := s.homeWho g.holder
  let b := keyBulk k
  let lo := s.unitsLo k
  let hi := s.unitsHi k n
  if s.grainBusy k then (.bi, s.homeJoin b lo hi who)
  else if !ls.isEmpty then (.bi, (s.biSend k ls write).homeJoin b lo hi who)
  else if s.homeAhead b lo hi who && !s.l1Serves g k n write then (.bi, s.homeJoin b lo hi who)
  else (.ok p, s.homePass b who)

/-- A request from outside the cores for n bytes at a device key reaches its home (R148, R151, R349, R352): it waits in the home
queue while the page's grain changes or a back-invalidation is out, and behind earlier requests for its units; `bi`: it is an agent of
the device, for which the home first takes the line back from the host. Served, it does `f`. -/
def State.outsideGate (s : State) (k n : Nat) (write bi : Bool) (r : OutReq) (f : State → Out) : Out :=
  let who : Option HomeWho := some (.outside r)
  let b := keyBulk k
  let lo := s.unitsLo k
  let hi := s.unitsHi k n
  let ls := if bi then s.biNeeds k n write else []
  if s.homeBusy k n then .next (s.homeJoin b lo hi who)
  else if !ls.isEmpty then .next ((s.biSend k ls write).homeJoin b lo hi who)
  else if s.homeAhead b lo hi who then .next (s.homeJoin b lo hi who)
  else f (s.homePass b who)
/-- A line that one of the device's own units reads and writes at k: free, or the back-invalidation is sent and the unit tries again
(R151, R352). -/
def State.unitReady (s : State) (k n : Nat) : Bool × State :=
  if s.homeBusy k n then (false, s)
  else
    let ls := s.hcLines k n
    if ls.isEmpty then (true, s) else (false, s.biSend k ls true)

/-- The checks on the place an address leads to: full/empty words, windows, seals, back-invalidations (R160, R341,
R342, R357, R352). -/
def State.checkPlace (s : State) (g : Agent) (a : Acc) (p : Place) : Ares × State :=
  match p with
  | .grain _ => (.ok p, s)
  | .mem k =>
    if a.fe && !keyHasFe k then (.fault 0x0b 0#64, s)
    else if a.write && s.sealed k then (.fault 0x08 0#64, s)
    else if isDevKey k then s.homeGate g k a.n a.write p (s.biGrant g k a.n a.write)
    else (.ok p, s)
  | .window e d =>
    if s.partRunning e = false then if a.write then (.fault 0x16 0#64, s) else (.ok p, s)
    else if s.windowAdmits e g.part d a.write then
      let k := (s.part e).dpaKey d
      if a.write && s.sealed k then (.fault 0x16 0#64, s.windowLog e d g)
      else s.homeGate g k a.n a.write p (s.biNeeds k a.n a.write)
    else (.fault 0x16 0#64, s.windowLog e d g)
  | .remote w _ =>
    if a.fe then (.fault 0x0b 0#64, s)
    else if a.write && !(s.pfGet (rwOff g.part w)).getLsbD 1 then (.fault 0x16 0#64, s)
    else (.ok p, s)

/-- Checks 1 to 3 and 5 to 7 of R160, in their order, up to the place an address leads to. A near-alias address of a deep
core is 0x06 (R30). -/
def State.locate (s : State) (g : Agent) (a : Acc) (va : Word) : Ares × State :=
  if canonical va = false then (.fault 0x10 0#64, s)
  else if nearAlias va && g.deep && !g.engine then (.fault 0x06 0#64, s)
  else if untranslated va then
    match s.window g a va with
    | none => (.fault 0x16 0#64, s)
    | some p => if va.toNat % a.align ≠ 0 then (.fault 0x0a 0#64, s) else (.ok p, s)
  else if va.toNat % a.align ≠ 0 then (.fault 0x0a 0#64, s)
  else match s.translate g a.write va with
    | (.ok p, s) => (.ok p, s)
    | (.fault c d, s) => (.fault c d, s)
    | (.ats, s) => (.ats, s)
    | (.page, s) => (.page, s)

/-- Checks 1 to 8 of R160, in their order. -/
def State.access (s : State) (g : Agent) (a : Acc) (va : Word) : Ares × State :=
  match s.locate g a va with
  | (.ok p, s) => s.checkPlace g a p
  | r => r

/-- Poisoned data at a place (R353): a mark, or a window whose exporter is not running (R342). -/
def State.placePoison (s : State) (p : Place) (n : Nat) : Bool :=
  match p with
  | .mem k => s.mem.poisoned k n
  | .grain _ => false
  | .window e d => if s.partRunning e then s.mem.poisoned ((s.part e).dpaKey d) n else true
  | .remote _ _ => false

/-- A byte of the grain-map window (R147): the grains of four pages. -/
def State.grainByte (s : State) (p off : Nat) : Byte :=
  let b := (s.part p).bulkOf (off / 65536)
  BitVec.ofNat 8 ((List.range 4).foldl (fun x i =>
    x + (fget 0#2 (s.bulk b).grain (8 * (off % 65536 * 4 + i))).toNat * 4 ^ i) 0)

/-- Remote memory as this package last saw it (log 6). -/
def State.remoteKeyOf (s : State) (p w dpa : Nat) : Nat :=
  let e := s.pfGet (rwOff p w)
  remoteKey (bitsOf e 32 16) (bitsOf e 8 6) dpa

/-- Key of a place that is in memory. -/
def State.placeKey (s : State) (p : Nat) : Place → Option Nat
  | .mem k => some k
  | .grain _ => none
  | .window e d => some ((s.part e).dpaKey d)
  | .remote w d => some (s.remoteKeyOf p w d)

/-- n bytes read at a place. -/
def State.readPlace (s : State) (p : Nat) (pl : Place) (n : Nat) : List Byte :=
  match pl with
  | .grain off => (List.range n).map fun i => s.grainByte p (off + i)
  | _ => match s.placeKey p pl with
    | some k => s.mem.bytes k n
    | none => []

/-- Bytes written at a place in memory. -/
def State.writePlace (s : State) (p : Nat) (pl : Place) (bs : List Byte) (poison : Bool) : State :=
  match s.placeKey p pl with
  | some k => s.writeMem k bs poison
  | none => s

/-- A place n bytes further on, in the same page. -/
def Place.shift (pl : Place) (n : Nat) : Place :=
  match pl with
  | .mem k => .mem (k + n)
  | .grain o => .grain (o + n)
  | .window e d => .window e (d + n)
  | .remote w d => .remote w (d + n)

/-- A place whose answer comes over a link: host memory or a remote package (R350, R358). -/
def Place.linked : Place → Bool
  | .mem k => isHostKey k
  | .remote _ _ => true
  | _ => false

end Sys2Proof.Machine
end

