-- ==== Sys2Proof/Machine/Home.lean ====
section
/-! DEFINITION. What serves an access once its place is known: proxy homes of host lines (R144, R149-R152, R157), host links
and reed ports with their outstanding operations (R350, R357-R360), stores by every route (R144, R148, R150, R187), reads
and decrements by agents that are no thread (R29, R183, R240, R350), and atomics at a home (R171, R172). -/

namespace Sys2Proof.Machine

/-- The memory key of a place in device memory of the partition or a tarn. -/
def homeKey : Place → Option Nat
  | .mem k => if isHostKey k then none else some k
  | _ => none

/-- The host port a partition's requests leave by: port p mod 2, or the other while its link is down (R350). -/
def State.portOf (s : State) (p : Nat) : Option Nat :=
  if s.portUp.getD (p % 2) false then some (p % 2)
  else if s.portUp.getD ((p + 1) % 2) false then some ((p + 1) % 2) else none
/-- The link in use runs CXL.cache (R173, R351). -/
def State.cxl (s : State) (p : Nat) : Bool := s.portCxl.getD ((s.portOf p).getD (p % 2)) false

/-- Proxy-home state of a host line (R144, R152). -/
def State.proxyGet (s : State) (p line : Nat) : HostLine := fget .i s.proxy (proxyKey p line)
def State.proxySet (s : State) (p line : Nat) (x : HostLine) : State :=
  { s with proxy := fset .i s.proxy (proxyKey p line) x }

/-- The line of a host key, its unit in the L1s (R149), and the bulkhead of its proxy home in a partition (R144). -/
def hostLineOf (k : Nat) : Nat := (k - 2 ^ 64) / 64
def hostUnit (k : Nat) : Nat := k / 64 * 64
def State.hostHome (s : State) (p k : Nat) : Nat := (s.part p).proxyHome (k - 2 ^ 64)
/-- The proxy home holds a host line exclusively (R150, R152). -/
def State.hostOwned (s : State) (p k : Nat) : Bool :=
  s.proxyGet p (hostLineOf k) == .e || s.proxyGet p (hostLineOf k) == .m
/-- A core reads a host line over CXL.cache (R149-R152): its proxy home and its L1 hold the line, exclusively where the home
holds it so and no other core has it. -/
def State.hostShare (s : State) (p core k : Nat) : State :=
  if s.cxl p then
    let s := if s.proxyGet p (hostLineOf k) = .i then s.proxySet p (hostLineOf k) .s else s
    s.cohReadIn (fun c => (s.part p).bulks.contains (c / 32)) (s.hostHome p k) core (hostUnit k) (s.proxyGet p (hostLineOf k) == .s)
  else s
/-- The copies of a host line leave the L1s of a partition's cores but one, and the directory (R150-R152). -/
def State.hostRecall (s : State) (p k : Nat) (but : Option Nat) : State :=
  let u := hostUnit k
  let leave (c : Nat × Core) : Nat × Core :=
    if (s.part p).bulks.contains (c.1 / 32) && decide (some c.1 ≠ but) then (c.1, { c.2 with l1 := fdel c.2.l1 u }) else c
  ({ s with cores := s.cores.map leave }.unsave (s.hostHome p k) u).modDir (s.hostHome p k) (dirKey u) fun d => d.forget u
/-- A core stores to a host line that its proxy home has in M (R150). -/
def State.hostOwn (s : State) (p core k : Nat) : State :=
  let u := hostUnit k
  let s := ((s.hostRecall p k (some core)).l1Make core u).l2Fill (s.hostHome p k) u 64 true
  if s.l1Room core u && s.l2Room (s.hostHome p k) (dirKey u) then
    (s.l1Set core u .m).modDir (s.hostHome p k) (dirKey u) fun d => { d with owner := fput d.owner u core }
  else s.hostRecall p k none

/-- The reed ports of an outbound window whose links are up, in ascending order (R358). -/
def State.reedPorts (s : State) (p w : Nat) : List Nat :=
  (List.range 72).filter fun i =>
    (if i < 64 then (s.pfGet (rwOff p w + 0x10)).getLsbD i else (s.pfGet (rwOff p w + 0x18)).getLsbD (i - 64)) &&
    !(fget false s.reedDown i)
/-- The port of an access to a remote block (R358). -/
def State.reedPort (s : State) (p w dpa : Nat) : Option Nat :=
  let l := s.reedPorts p w
  if l.isEmpty then none else l[dpa / 512 % l.length]?

/-- A lane of a port is halted by a STOP (R360). -/
def State.halted (s : State) (port lane : Nat) : Bool := fget false s.laneStopped (4 * port + lane)
/-- Bytes of an operation lie in the 64-byte line of a key. -/
def HostOp.onLine (o : HostOp) (k : Nat) : Bool :=
  decide (o.key < k / 64 * 64 + 64) && decide (k / 64 * 64 < o.key + max o.data.length 1)
/-- A write of the partition to the line that is not performed: a read or an atomic of the line waits behind it (R185,
R188). -/
def State.writeAhead (s : State) (p k : Nat) : Bool :=
  (s.hostOps ++ s.remoteOps).any fun o => o.part == p && o.write && o.onLine k
/-- The port by which an access leaves now (R350, R358, R360): none while its links are down or its lane is halted. -/
def State.exitPort (s : State) (p : Nat) (pl : Place) (write : Bool) : Option Nat :=
  match pl with
  | .remote w d => (s.reedPort p w d).bind fun i => if s.halted i (if write then 1 else 0) then none else some i
  | _ => s.portOf p

/-- The key of a place over a link, and the window and DPA of a remote one. -/
def State.linkKey (s : State) (p : Nat) (pl : Place) : Nat := (s.placeKey p pl).getD 0
def Place.win : Place → Nat | .remote w _ => w | _ => 0
def Place.rdpa : Place → Nat | .remote _ d => d | _ => 0
/-- An operation on a link (R350, R358): sent at once when it can leave and no write to its line is ahead of it. -/
def State.newOp (s : State) (p vf : Nat) (pl : Place) (write : Bool) (k c : Nat) (pc : Word) (data : List Byte) : HostOp :=
  let key := s.linkKey p pl
  let port := if !write && s.writeAhead p key then none else s.exitPort p pl write
  { id := s.opSeq, part := p, vf := vf, pasid := s.pasid p vf, key := key, write := write, atomic := false, own := false, dec := false,
    core := k, ctx := c, pc := pc, sent := port.isSome, since := s.ts, data := data, win := pl.win, dpa := pl.rdpa,
    tid := (s.ctx k c).tid, port := port.getD (p % 2), poison := false, holder := none, ans := .pending, newer := [] }
/-- It is recorded as outstanding. -/
def State.addOp (s : State) (pl : Place) (op : HostOp) : State :=
  match pl with
  | .remote _ _ => { s with remoteOps := s.remoteOps ++ [op], opSeq := s.opSeq + 1 }
  | _ => { s with hostOps := s.hostOps ++ [op], opSeq := s.opSeq + 1 }
/-- n bytes from k have been written here: no answer to a request made before overwrites them (R188). -/
def HostOp.note (k n : Nat) (p : Bool) (o : HostOp) : HostOp :=
  if o.key / 64 * 64 < k + n ∧ k < o.key / 64 * 64 + 64 then { o with newer := (k, k + n, p) :: o.newer } else o
def State.noteWrite (s : State) (k n : Nat) (p : Bool) : State :=
  { s with hostOps := s.hostOps.map (HostOp.note k n p), remoteOps := s.remoteOps.map (HostOp.note k n p) }
/-- The first key of an answer's bytes: the word of an AtomicOp or a remote atomic, else the start of the line. -/
def HostOp.base (o : HostOp) : Nat := if o.atomic && !o.own then o.key else o.key / 64 * 64
/-- Bytes written over a link are in this package's view of that memory (log 6). -/
def State.linkWrite (s : State) (k : Nat) (bs : List Byte) (poison : Bool) : State :=
  (s.noteWrite k bs.length poison).writeMem k bs poison

/-- A write to host memory whose link is up (R187, R350): without CXL.cache it is sent, posted. With CXL.cache the proxy home
accepts it, and takes the line in M: at once where it owns the line, else its request for ownership is outstanding. -/
def State.hostPut (s : State) (o : HostOp) : State :=
  let p := o.part
  if s.cxl p then
    let s := if o.holder.isNone && s.hostOwned p o.key then s.hostOwn p o.core o.key else s.hostRecall p o.key none
    let s := s.setTag (s.hostHome p o.key) (dirKey o.key) (s.rixOf p o.vf)
    if s.hostOwned p o.key then (s.proxySet p (hostLineOf o.key) .m).linkWrite o.key o.data o.poison
    else
      { s with hostOps := s.hostOps ++ [{ o with own := true, sent := true, since := s.ts, port := (s.portOf p).getD o.port }] }.linkWrite
        o.key o.data o.poison
  else s.linkWrite o.key o.data o.poison
/-- A write to host memory: while both links are down it waits in the partition's queue. `h` is `.hint` for a writer that is no
thread. -/
def State.hostStore (s : State) (p vf key : Nat) (bs : List Byte) (poison : Bool) (k c : Nat) (h : Option Holder) : State :=
  let op := { s.newOp p vf (.mem key) true k c 0#64 bs with poison := poison, holder := h }
  if (s.portOf p).isSome then { s with opSeq := s.opSeq + 1 }.hostPut op else s.addOp (.mem key) op

/-- A write through an outbound remote window (R358): outstanding until its acknowledgement. -/
def State.remoteStore (s : State) (p vf w dpa : Nat) (bs : List Byte) (poison : Bool) (k c : Nat) (h : Option Holder) : State :=
  let op := { s.newOp p vf (.remote w dpa) true k c 0#64 bs with poison := poison, holder := h }
  let s := s.addOp (.remote w dpa) op
  if op.sent then s.linkWrite op.key bs poison else s

/-- A store performed at a place that has passed its checks. `core` is the storing core, for its L1 (R150); engines store
at the home. -/
def State.storeAt (s : State) (p vf : Nat) (core : Option Nat) (kc : Nat × Nat) (pl : Place) (bs : List Byte) (poison : Bool) : State :=
  let h : Option Holder := if core.isNone then some .hint else none
  match pl with
  | .grain _ => s
  | .remote w d => s.remoteStore p vf w d bs poison kc.1 kc.2 h
  | .window e d =>
    let key := (s.part e).dpaKey d
    ((s.recallAll key bs.length).tagBlock key p vf bs.length).writeMem key bs poison
  | .mem key =>
    if isHostKey key then s.hostStore p vf key bs poison kc.1 kc.2 h
    else if isDevKey key then
      let s := match core with
        | some k => (s.unitsOf key bs.length).foldl (fun (s : State) u => s.cohOwn k u) s
        | none => (s.recallAll key bs.length).biTake key bs.length
      (s.tagBlock key p vf bs.length).writeMem key bs poison
    else s.writeMem key bs poison
/-- Bytes from key k cut at each multiple of n, with their offsets: `fuel` pieces at most. -/
def cutAt (n : Nat) : Nat → Nat → Nat → List Byte → List (Nat × List Byte)
  | 0, _, _, _ => []
  | f + 1, k, off, bs =>
    if bs.isEmpty then [] else (off, bs.take (n - k % n)) :: cutAt n f (k / n * n + n) (off + (n - k % n)) (bs.drop (n - k % n))
/-- What one request over a link carries: a line of host memory, or a 512-byte block of a remote package, which has one port (R144,
R358). -/
def Place.block : Place → Nat | .remote _ _ => 512 | _ => 64
/-- A write by an engine or another agent that is no core. -/
def State.agentStore (s : State) (p vf : Nat) (pl : Place) (bs : List Byte) (poison : Bool) : State :=
  let put (s : State) (pl : Place) (bs : List Byte) : State := s.storeAt p vf none (32 * (s.part p).bulkOf 0, 0) pl bs poison
  let k := s.linkKey p pl
  if pl.linked && decide (pl.block < k % pl.block + bs.length) then
    (cutAt pl.block (bs.length / pl.block + 2) k 0 bs).foldl (fun s x => put s (pl.shift x.1) x.2) s
  else put s pl bs

/-- A write of the partition is not performed at a scope (R187): at clu to dev, one that no reed port has taken; at sys, one
that the host has not been sent or its line not owned, or that no remote home has acknowledged. A release waits for every
write of its partition, so that it is cumulative (R191, log 79). -/
def State.writesOut (s : State) (p : Nat) (c : Scope) : Bool :=
  match c with
  | .core => false
  | .sys => (s.hostOps ++ s.remoteOps).any fun o => o.part == p && o.write
  | _ => s.remoteOps.any fun o => o.part == p && o.write && !o.sent

/-- A host line that the proxy home holds is answered on the device (R152, R157). -/
def State.onDevice (s : State) (p : Nat) (pl : Place) : Bool :=
  match pl with
  | .mem k => !isHostKey k || s.proxyGet p (hostLineOf k) != .i
  | .remote _ _ => false
  | _ => true

/-- How a read over a link by an agent stands (R350, R359, log 7). -/
inductive LinkRead | data | held | lost | refused deriving DecidableEq, Repr
/-- The reads over links that a holder has asked for. -/
def HostOp.readBy (h : Holder) (o : HostOp) : Bool := o.holder == some h && !o.write
/-- A holder's request for the line of a key. -/
def State.lineOp (s : State) (vf : Nat) (h : Holder) (k : Nat) : Option HostOp :=
  (s.hostOps ++ s.remoteOps).find? fun o => o.readBy h && o.vf == vf && o.key / 64 == k / 64
/-- One line read by a holder: on the device, or by a request of its own. -/
def State.lineRead (s : State) (p vf : Nat) (h : Holder) (pl : Place) : LinkRead × State :=
  if s.onDevice p pl then (.data, s)
  else match s.lineOp vf h (s.linkKey p pl) with
    | none => (.held, s.addOp pl { s.newOp p vf pl false 0 0 0#64 [] with holder := some h })
    | some o => (match o.ans with | .pending => .held | .data => .data | .refused => .refused | _ => .lost, s)
/-- Two parts of a read together: one that waits holds it, one refused refuses it, one lost makes it poisoned. -/
def LinkRead.and (a b : LinkRead) : LinkRead :=
  if a = .held ∨ b = .held then .held else if a = .refused ∨ b = .refused then .refused else if a = .lost then .lost else b
/-- The n lines from a place read. -/
def State.linesRead (s : State) (p vf : Nat) (h : Holder) (pl : Place) : Nat → LinkRead × State
  | 0 => (.data, s)
  | n + 1 =>
    let (a, s) := s.lineRead p vf h pl
    let (b, s) := s.linesRead p vf h (pl.shift (64 - s.linkKey p pl % 64)) n
    (a.and b, s)
/-- A read of n bytes by a holder at a place (R350, R358): its data, a wait for the answers, poison, or an error response. -/
def State.linkRead (s : State) (p vf : Nat) (h : Holder) (pl : Place) (n : Nat) : LinkRead × State :=
  if pl.linked = false then (.data, s)
  else s.linesRead p vf h pl ((s.linkKey p pl % 64 + n + 63) / 64)
/-- n bytes of a place as a holder's read gave them are poisoned (R353): a mark, or an answer that was lost. -/
def State.readPoison (s : State) (p vf : Nat) (h : Holder) (pl : Place) (n : Nat) : Bool :=
  s.placePoison pl n ||
  (pl.linked && (List.range ((s.linkKey p pl % 64 + n + 63) / 64)).any fun i =>
    match s.lineOp vf h (s.linkKey p pl / 64 * 64 + 64 * i) with
    | some o => o.ans == .lost
    | none => false)
/-- A holder's unit of work for a VF is done: what it asked for is forgotten. -/
def State.linkDone (s : State) (vf : Nat) (h : Holder) : State :=
  { s with
    hostOps := s.hostOps.filter fun o => !(o.readBy h && o.vf == vf)
    remoteOps := s.remoteOps.filter fun o => !(o.readBy h && o.vf == vf) }
/-- The reads over links that engines have asked for on behalf of a VF are forgotten; those that go on ask again. A decrement stays
when its command does, for it is made once; a watched line's request is its home's. -/
def State.forgetReads (s : State) (p vf : Nat) (decs : Bool) : State :=
  let own (o : HostOp) : Bool := o.part == p && o.vf == vf && !o.write && o.holder.isSome && o.holder != some .line && (decs || !o.atomic)
  { s with hostOps := s.hostOps.filter fun o => !own o, remoteOps := s.remoteOps.filter fun o => !own o }

/-- The proxy home requests a watched host line that it does not hold (R157). -/
def State.holdLine (s : State) (p line : Nat) : State :=
  let k := 64 * line
  if isHostKey k && s.cxl p && s.proxyGet p (hostLineOf k) == .i &&
      !(s.hostOps.any fun o => o.part == p && o.readBy .line && o.key / 64 == line)
  then s.addOp (.mem k) { s.newOp p (s.part p).homeVf (.mem k) false 0 0 0#64 [] with holder := some .line }
  else s
/-- A line leaves its proxy home (R152); one that is watched is requested again at once (R157). -/
def State.proxyLeave (s : State) (p k : Nat) : State :=
  let s := (s.hostRecall p k none).proxySet p (hostLineOf k) .i
  if s.watchedLine (s.hostHome p k) (k / 64) then s.holdLine p (k / 64) else s

/-- An atomic performed at its home: every copy recalled, the word read and written in one step (R171, R172). -/
def State.atomicAt (s : State) (p vf : Nat) (pl : Place) (n : Nat) (new : Nat → Nat) : Nat × State :=
  match s.placeKey p pl with
  | none => (0, s)
  | some k =>
    let s := if isDevKey k then
        (s.recallAll k n).tagBlock k p vf n
      else if isHostKey k then
        ((s.proxySet p (hostLineOf k) (if s.hostOwned p k then .m else s.proxyGet p (hostLineOf k))).hostRecall p k none).setTag
          (s.hostHome p k) (dirKey k) (s.rixOf p vf)
      else s
    let old := s.mem.num k n
    (old, if keyHasFe k then s.writeNum k n (new old) else s.linkWrite k (leBytes n (new old)) false)

/-- A request for ownership that leaves on a link without CXL.cache (R173): an AtomicOp for a decrement that may be one, else it
ends. -/
def State.route (s : State) (o : HostOp) : HostOp :=
  if o.sent && o.own && !o.write && !s.cxl o.part then
    if o.dec then { o with own := false } else { o with ans := .noCache }
  else o
/-- How a decrement ends: made, held by a link, its word poisoned or its request lost, or on a link without CXL.cache. -/
inductive DecRes | done | held | lost | noCache deriving DecidableEq, Repr
/-- An atomic that the other side has performed (R173, R358): the word in this package's view, but for bytes written here since
(R188). -/
def State.landAtomic (s : State) (o : HostOp) (n new : Nat) : State :=
  let s := if isHostKey o.key then (s.hostRecall o.part o.key none).setTag (s.hostHome o.part o.key) (dirKey o.key) (s.rixOf o.part o.vf) else s
  let bs := leBytes n new
  if o.newer.isEmpty then s.linkWrite o.key bs false
  else (s.modMem fun m => m.setExcept (o.newer.map fun r => (r.1, r.2.1)) o.key bs).written o.key n
/-- 1 subtracted from the 64-bit word at a place by a holder, in one step at its home (R29, R183, R240): on the device, or in a
host line that the proxy home owns, at once. Over a link it is a request: for the ownership of the host line, an AtomicOp
where `plain` allows one and the link runs no CXL.cache (log 80), or a remote AMO. -/
def State.decAt (s : State) (p vf : Nat) (h : Holder) (pl : Place) (plain : Bool) : DecRes × State :=
  let far := match pl with | .remote _ _ => true | _ => false
  let ask (s : State) : State :=
    let op := s.newOp p vf pl false 0 0 0#64 []
    s.addOp pl (s.route { op with holder := some h, atomic := true, own := !far, dec := plain || far })
  let here (s : State) : DecRes × State :=
    if s.placePoison pl 8 then (.lost, s)
    else (.done, (s.atomicAt p vf pl 8 fun x => (x + (2 ^ 64 - 1)) % 2 ^ 64).2.linkDone vf h)
  match pl with
  | .remote _ _ => match s.lineOp vf h (s.linkKey p pl) with
    | none => (.held, ask s)
    | some o => match o.ans with
      | .pending => (.held, s)
      | .data => (.done, s.linkDone vf h)
      | _ => (.lost, s.linkDone vf h)
  | .mem k =>
    if isHostKey k = false ∨ s.hostOwned p k = true then here s
    else if plain = false ∧ (s.portOf p).isSome = true ∧ s.cxl p = false then (.noCache, s.linkDone vf h)
    else match s.lineOp vf h k with
      | none => (.held, ask s)
      | some o => match o.ans with
        | .pending => (.held, s)
        | .data => if o.own then (.held, ask (s.linkDone vf h)) else (.done, s.linkDone vf h)
        | .noCache => (.noCache, s.linkDone vf h)
        | _ => (.lost, s.linkDone vf h)
  | _ => here s

end Sys2Proof.Machine
end

