-- ==== Sys2Proof/Machine/Ops.lean ====
section
/-! DEFINITION. The named operations of the machine: registers of the current context, the end of an instruction, ONCE
posts (R116), fault records and their summary lines (R316-R320), taking a fault (R17, R65, R308) and the return from one
(R309), holding an access (R160). -/

namespace Sys2Proof.Machine

/-- A core has sampled a TS of at least the S of a switch (R285). -/
def State.reached (s : State) (p k : Nat) (w : Switch) : Bool :=
  decide (w.at_ ≤ ((s.core k).sample + (s.part p).tsOffset) % 2 ^ 64)
/-- A VF runs, and the switch away from it has come to its S (R285, R288). -/
def State.atSwitch (s : State) (p vf : Nat) : Bool :=
  (s.part p).running == some vf && (s.part p).switch.any fun w => decide (w.at_ ≤ s.tsOf p)

/-- A switch has come to its S for an engine command's VF: the engine goes no further with it than its boundary (R288). -/
def State.engineStop (s : State) (c : ECmd) : Bool := s.atSwitch c.issuer.part c.issuer.vf

/-- The context that acts. -/
def State.cc (s : State) : Ctx := s.ctx s.cur.1 s.cur.2
/-- The context that acts, changed. -/
def State.modCur (s : State) (f : Ctx → Ctx) : State := s.modCtx s.cur.1 s.cur.2 f

/-- g(n): g0 reads zero (R61). -/
def Regs.getG (r : Regs) (n : Nat) : Word := if n = 0 then 0#64 else fget 0#64 r.g n
/-- g(n) written: a write of g0 is dropped (R61). -/
def Regs.setG (r : Regs) (n : Nat) (x : Word) : Regs := if n = 0 then r else { r with g := fput r.g n x }
/-- v(n). -/
def Regs.getV (r : Regs) (n : Nat) : Vec := fget 0#512 r.v n
def Regs.setV (r : Regs) (n : Nat) (x : Vec) : Regs := { r with v := fput r.v n x }
/-- e(n), i(n). -/
def Regs.getE (r : Regs) (n : Nat) : Word := fget 0#64 r.e n
def Regs.setE (r : Regs) (n : Nat) (x : Word) : Regs := { r with e := fput r.e n x }
def Regs.getI (r : Regs) (n : Nat) : Word := fget 0#64 r.i n
def Regs.setI (r : Regs) (n : Nat) (x : Word) : Regs := { r with i := fput r.i n x }

/-- Registers changed in a context. -/
def Ctx.modRegs (c : Ctx) (f : Regs → Regs) : Ctx := { c with regs := f c.regs }

/-- Registers of the current context. -/
def State.g (s : State) (n : GReg) : Word := s.cc.regs.getG n.toNat
def State.v (s : State) (n : VReg) : Vec := s.cc.regs.getV n.toNat
def State.e (s : State) (n : Nat) : Word := s.cc.regs.getE n
def State.pc (s : State) : Word := s.cc.pc

/-- An address in canonical form: bits [63:57] copies of bit 56 (R11). -/
def canon (x : Word) : Word := (x.setWidth 57).signExtend 64

/-- The thread of the current context and its record. -/
def State.tid (s : State) : W32 := s.cc.tid
def State.recOf (s : State) (t : W32) : Rec := (s.findRec t).getD Rec.empty
def State.me (s : State) : Rec := s.recOf s.tid

/-- The agent of the thread in context c of core k. -/
def State.agentAt (s : State) (k c : Nat) : Agent :=
  let r := s.recOf (s.ctx k c).tid
  { part := r.part, vf := r.vf, bulk := coreBulk k, unit := coreUnit k, deep := isDeep k, engine := false, tid := r.tid,
    holder := .ctx k c }
/-- The agent of the current thread. -/
def State.ag (s : State) : Agent := s.agentAt s.cur.1 s.cur.2

/-- ONCE: a group's contexts run threads of one launch with one t in one cluster (R115). -/
def State.onceGroup (s : State) (k c : Nat) : List (Nat × Nat) :=
  let me := s.recOf (s.ctx k c).tid
  if isDeep k || me.launchId == none then []
  else s.cores.flatMap fun x =>
    if coreUnit x.1 = coreUnit k ∧ isDeep x.1 = false then
      x.2.ctxs.filterMap fun y =>
        let r := s.recOf y.2.tid
        if y.2.bound = true ∧ ¬(x.1 = k ∧ y.1 = c) ∧ r.part = me.part ∧ r.launchId = me.launchId ∧ r.coord = me.coord
        then some (x.1, y.1) else none
    else []

/-- The elected core of a context's group: the lowest that holds a context of it (R116). -/
def State.onceElected (s : State) (k c : Nat) : Nat := (s.onceGroup k c).foldl (fun m x => min m x.1) k

/-- A result sent as a post to every other context of the group (R116); none for g0 (R119). -/
def State.post (s : State) (k c reg : Nat) (x : Word) (q : Byte) : State :=
  if reg = 0 then s
  else
    let p : Post := { reg := reg, vec := false, value := x.setWidth 512, q := q, src := some (k, c) }
    let dest := (s.onceGroup k c).map fun y => (y.1, y.2, p)
    s.modUnit (coreUnit k) fun u => { u with posts := u.posts ++ dest }

/-- The current instruction writes g(d); under ONCE the result is posted too (R116). -/
def State.setG (s : State) (d : GReg) (x : Word) : State :=
  let s' := s.modCur fun c => c.modRegs fun r => r.setG d.toNat x
  match s.cc.onceQ with
  | none => s'
  | some q => s'.post s.cur.1 s.cur.2 d.toNat x q
/-- The current instruction writes v(d). -/
def State.setV (s : State) (d : VReg) (x : Vec) : State := s.modCur fun c => c.modRegs fun r => r.setV d.toNat x

/-- The instruction has retired and the next is at pc. -/
def Ctx.retire (pc : Word) (c : Ctx) : Ctx :=
  { c with
    pc := pc, retired := c.retired + 1, onceQ := none, scOpen := false, scAt := none, noticed := none, feTries := 0,
    wait := .none_, answer := none, begun := false }
/-- The current instruction retires; the next is at pc. -/
def State.goto (s : State) (pc : Word) : State := s.modCur (Ctx.retire pc)
/-- The current instruction of n bytes retires. -/
def State.adv (s : State) (n : Nat) : State := s.goto (s.pc + BitVec.ofNat 64 n)
/-- The current word retires (R39). -/
def State.done (s : State) : State := s.adv 4
/-- g(d) is written and the current word retires. -/
def State.ret (s : State) (d : GReg) (x : Word) : State := (s.setG d x).done

/-- The current context issues nothing before n core cycles of its core have passed (R99, R121). -/
def State.cool (s : State) (n : Nat) : State :=
  let now := (s.core s.cur.1).cycle
  s.modCur fun c => { c with readyAt := now + n }
/-- After DIV, FDIV and FSQRT with the result in g(d): a barrel context issues nothing for n core cycles; on a deep core only the
instructions that read the result wait (R99). -/
def State.long (s : State) (d : GReg) (n : Nat) : State :=
  if isDeep s.cur.1 then
    let now := (s.core s.cur.1).cycle
    s.modCur fun c => { c with results := if d = 0#5 then c.results else (d.toNat, now + n) :: c.results }
  else s.cool n

/-- The instruction waits and is executed again. -/
def State.waitFor (s : State) (w : Wait) : State := s.modCur fun c => { c with wait := w }

/-- The 64 bytes of a fault record with a given SEQ and TS (R316). -/
def FaultRec.bytes (r : FaultRec) (seq ts : Nat) : List Byte :=
  leBytes 8 (r.code % 256 + (if r.engine then 0x100 else 0) + (if r.notice then 0x200 else 0) +
    (if r.saved then 0x400 else 0) + (if r.late then 0x800 else 0) + seq % 2 ^ 32 * 2 ^ 32) ++
  leBytes 8 r.tid.toNat ++ leBytes 8 r.pc.toNat ++ leBytes 8 r.addr.toNat ++ leBytes 8 r.detail.toNat ++
  leBytes 8 (ts % 2 ^ 64) ++ leBytes 8 (r.vf % 256 + r.core % 65536 * 65536) ++ leBytes 8 0

/-- Key of the summary line of the home core of a thread (R320). -/
def State.summaryKey (s : State) (p : Nat) (t : W32) : Nat :=
  (s.part p).dpaKey ((s.desc p 0x80).toNat + 64 * (s.part p).flatCore (tidCore t))
/-- The line is free for the device to read and write, or taken back from the host first (R352). -/
def State.summaryReady (s : State) (p : Nat) (t : W32) (due : Bool) : Bool × State :=
  if due then s.unitReady (s.summaryKey p t) 0x28 else (true, s)
/-- The summary line of the home core of a thread (R320): bit of its slot, and COUNT. The write is made for VF vf (R149). -/
def State.summary (s : State) (p vf : Nat) (t : W32) : State :=
  let k := s.summaryKey p t
  let s := ((s.recallAll k 64).biTake k 0x28).tagBlock k p vf 64
  let i := k + tidSlot t / 8
  let b := s.mem.byte i ||| BitVec.ofNat 8 (2 ^ (tidSlot t % 8))
  let n := s.mem.num (k + 0x20) 8 + 1
  let s := s.modMem fun m => m.setBytes (k + 0x20) (leBytes 8 n)
  (s.modMem fun m => m.setByte i b).written k 0x28

/-- The CORE field of a record for a thread on core k (R316). -/
def State.coreField (s : State) (p k : Nat) : Nat := if isDeep k then 0xfffe else (s.part p).flatCore k

/-- A record written at a line that has passed its checks: an indivisible read-modify-write of 64 bytes (R317). -/
def State.recordAt (s : State) (p : Nat) (pl : Place) (r : FaultRec) : State :=
  let seq := leNat (s.readPlace p pl 8) / 2 ^ 32 + 1
  s.agentStore p r.vf pl (r.bytes seq (s.tsOf p)) false

/-- A record dropped and logged with cause 5 (R317, R322). -/
def State.recordDrop (s : State) (b : Nat) (line : Word) (t : W32) (source : Nat) : State :=
  s.vlogAppend b line.toNat 5 source (t.toNat % 65536)

/-- The agent that writes a record for a thread from bulkhead b (R409). -/
def recordAgent (p vf b : Nat) (t : W32) (h : Holder) : Agent :=
  { part := p, vf := vf, bulk := b, unit := 8 * b, deep := false, engine := true, tid := t, holder := h }

/-- A notice, bounce or engine record of bulkhead b (R317), and whether it is over: written, or dropped and logged; else it waits until its line's
translation request, and over a link the read of its old SEQ, is answered. A line that cannot be read is as one that fails a
check (log 82). -/
def State.tryEmit (s : State) (b p : Nat) (line : Word) (r : FaultRec) (source : Nat) : Bool × State :=
  let h : Holder := .record line.toNat source
  let fin (s : State) : Bool × State := (true, if r.notice then s else s.summary p r.vf r.tid)
  match s.summaryReady p r.tid (!r.notice) with
  | (false, s) => (false, s)
  | (true, s) => match s.access (recordAgent p r.vf b r.tid h) (Acc.vstore 64) line with
    | (.ok pl, s) =>
      if s.writesOut p .part then (false, s)
      else match s.linkRead p r.vf h pl 64 with
        | (.held, s) => (false, s)
        | (.lost, s) | (.refused, s) => fin ((s.linkDone r.vf h).recordDrop b line r.tid source)
        | (.data, s) => fin ((s.linkDone r.vf h).recordAt p pl r)
    | (.ats, s) | (.bi, s) => (false, s)
    | (.page, s) | (.fault _ _, s) => fin (s.recordDrop b line r.tid source)
/-- Such a record, kept by the bulkhead while it waits. -/
def State.emit (s : State) (b p : Nat) (line : Word) (r : FaultRec) (source : Nat) : State :=
  match s.tryEmit b p line r source with
  | (true, s) => s
  | (false, s) => s.modBulk b fun x => { x with pendRecs := x.pendRecs ++ [{ line := line, rc := r, part := p, source := source }] }

/-- The PAGE_WAIT notice of a thread (R160, R316). -/
def State.pageNotice (s : State) (b : Nat) (t : W32) (core : Nat) (pc addr : Word) : State :=
  let r := s.recOf t
  s.emit b r.part r.faultLine
    { code := 0x12, engine := false, notice := true, saved := false, late := false, tid := t, pc := pc, addr := addr,
      detail := 0#64, vf := r.vf, core := core } 0

/-- The words of a register file, n from i. -/
def wordsOf (f : Nat → Word) (i : Nat) : Nat → List Byte
  | 0 => []
  | n + 1 => leBytes 8 (f i).toNat ++ wordsOf f (i + 1) n
def vecsOf (f : Nat → Vec) (i : Nat) : Nat → List Byte
  | 0 => []
  | n + 1 => leBytes 64 (f i).toNat ++ vecsOf f (i + 1) n

/-- Bytes 0x40 to 0xfff of a stop block (R319). -/
def Regs.stopBytes (r : Regs) : List Byte :=
  wordsOf r.getG 1 31 ++ leBytes 8 r.env.toNat ++ wordsOf r.getE 0 8 ++ wordsOf r.getI 0 3 ++
  leBytes 8 (2 ^ 54 - 1) ++ leBytes 8 r.q.toNat ++ leBytes 24 0 ++
  leBytes 64 r.la.toNat ++ leBytes 64 r.lb.toNat ++ leBytes 64 r.lc.toNat ++ leBytes 128 0 ++
  vecsOf r.getV 0 24 ++ leBytes 0x700 0

/-- Words read into a register file, n from i. -/
def loadWords (m : Mem) (k i : Nat) : Nat → FMap Word
  | 0 => []
  | n + 1 => (i, m.word k) :: loadWords m (k + 8) (i + 1) n
def loadVecs (m : Mem) (k i : Nat) : Nat → FMap Vec
  | 0 => []
  | n + 1 => (i, m.block k) :: loadVecs m (k + 64) (i + 1) n

/-- The registers a stop block at k holds (R319); g1-g4 come from the record (R309), and the reserved bits of env read zero
(R7, R174). -/
def Regs.ofBlock (m : Mem) (k : Nat) (r : Rec) : Regs :=
  { g := (1, r.g1) :: (2, r.g2) :: (3, r.g3) :: (4, r.g4) :: loadWords m (k + 0x60) 5 27, v := loadVecs m (k + 0x300) 0 24,
    e := loadWords m (k + 0x140) 0 8, i := loadWords m (k + 0x180) 0 3, la := m.block (k + 0x1c0),
    lb := m.block (k + 0x200), lc := m.block (k + 0x240), env := m.word (k + 0x138) &&& 0x11f#64, q := m.byte (k + 0x1a0) }

/-- The resume registers of a record (R18). -/
def Rec.resumeRegs (r : Rec) : Regs :=
  { Regs.zero with g := [(1, r.g1), (2, r.g2), (3, r.g3), (4, r.g4)] }

/-- PC and g1-g4 written into the record (R18, R17). -/
def Rec.keep (r : Rec) (pc : Word) (x : Regs) : Rec :=
  { r with
    pc := canon pc, g1 := x.getG 1, g2 := x.getG 2, g3 := x.getG 3, g4 := x.getG 4, place := none, image := none,
    result := none, deliver := false }

/-- A request or refusal held for a context. -/
def Holder.ofCtx (k c : Nat) : Holder → Bool
  | .ctx a b => decide (a = k ∧ b = c)
  | .prod a b _ => decide (a = k ∧ b = c)
  | .unwatch a b => decide (a = k ∧ b = c)
  | .tstart a b => decide (a = k ∧ b = c)
  | _ => false
/-- A thread has left a context (R117, R297): the posts in flight to it are discarded as those held for it are (log 86), and its
own posts go on without it. -/
def Clus.leavePosts (k c : Nat) (u : Clus) : Clus :=
  { u with posts := (u.posts.filter fun e => !(e.1 == k && e.2.1 == c)).map fun e =>
      (e.1, e.2.1, if e.2.2.src = some (k, c) then { e.2.2 with src := none } else e.2.2) }
/-- The context is free; its thread's translation requests go on for no one (R330). -/
def State.release (s : State) (k c : Nat) : State :=
  let s := s.modBulk (coreBulk k) fun b =>
    { b with
      reqs := b.reqs.map fun q => { q with holders := q.holders.filter fun h => !h.ofCtx k c }
      refused := b.refused.filter fun r => !r.holder.ofCtx k c }
  let s := s.modUnit (coreUnit k) fun u => { u.leavePosts k c with idleAt := s.ts }
  let own (o : HostOp) : Bool := o.holder == some (.ctx k c)
  let s := { s with hostOps := s.hostOps.filter fun o => !own o, remoteOps := s.remoteOps.filter fun o => !own o }
  let s := match (s.ctx k c).fence with
    | none => s
    | f => s.modRec (s.ctx k c).tid fun r => { r with fence := f }
  s.modCtx k c fun x => { Ctx.empty with last := x.last }

/-- A status written to an instruction that waited for it, which retires (R307, R271). -/
def State.reply (s : State) (k c d : Nat) (x : Word) : State :=
  s.modCtx k c fun y => (y.modRegs fun r => r.setG d x).retire (y.pc + 4#64)

/-- The bulkhead that writes a thread's records where it holds no context: its home's (R409). -/
def State.stopBulk (_ : State) (t : W32) : Nat := tidBulk t

/-- The stop block of a thread with SAVE, and its fault record, at a line that has passed its checks (R17, R317). -/
def State.stopWrites (s : State) (p : Nat) (pl : Place) (r : Rec) (x : Regs) (rc : Option FaultRec) : State :=
  let s := if r.save then
      s.agentStore p r.vf (pl.shift 0x40) x.stopBytes false
    else s
  match rc with
  | some f => s.recordAt p pl { f with saved := r.save }
  | none => s

/-- The record of a stopped thread (R15, R17). -/
def Rec.stopped (r : Rec) (pc : Word) (x : Regs) (faulted : Bool) : Rec :=
  { r.keep pc x with state := .stopped, faulted := faulted, sendwait := false, deadline := none }

/-- The stop block and the fault record of a stop of thread r, then `fin` (R17, R317), by agent g of bulkhead b; a line that fails
a check, or cannot be read, drops them (log 82). `wait` while the thread's writes are not performed at part scope (R194), or the
line's translation, or over a link its old SEQ, is requested. -/
def State.stopRecord (s : State) (g : Agent) (b : Nat) (r : Rec) (x : Regs) (rc : Option FaultRec) (wait fin : State → State) :
    State :=
  let h : Holder := .record r.faultLine.toNat 0
  let drop (s : State) : State := s.recordDrop b r.faultLine r.tid 0
  if s.writesOut r.part .part then wait s
  else if rc.isNone && !r.save then fin s
  else match s.summaryReady r.part r.tid rc.isSome with
  | (false, s) => wait s
  | (true, s) => match s.access { g with holder := h } { Acc.vstore 64 with n := if r.save then 4096 else 64 } r.faultLine with
    | (.ok pl, s) =>
      match if rc.isSome then s.linkRead r.part r.vf h pl 64 else (.data, s) with
      | (.held, s) => wait s
      | (.lost, s) | (.refused, s) => fin (drop (s.linkDone r.vf h))
      | (.data, s) => fin ((s.linkDone r.vf h).stopWrites r.part pl r x rc)
    | (.ats, s) | (.bi, s) => wait s
    | (.page, s) | (.fault _ _, s) => fin (drop s)

/-- A stop whose producers are done takes effect (R17, R65, R308): the stop block and the fault record, the summary line,
the record, the waiting TSTOPs, the context released. -/
def State.finishStop (s : State) (k c : Nat) : State :=
  let x := s.ctx k c
  match x.stop with
  | none => s
  | some st =>
    let r := s.recOf x.tid
    let rc := st.code.map fun code =>
      { code := code, engine := false, notice := false, saved := false, late := st.late, tid := x.tid, pc := st.pc,
        addr := st.addr, detail := st.detail, vf := r.vf, core := s.coreField r.part k }
    let fin (s : State) : State :=
      let s := if st.code.isSome then s.summary r.part r.vf x.tid else s
      let s := s.modRec x.tid fun r => r.stopped st.resume x.regs st.code.isSome
      let s := s.release k c
      st.callers.foldl (fun s y => s.reply y.1 y.2.1 y.2.2 (if st.code.isSome then 1#64 else 0#64)) s
    s.stopRecord (s.agentAt k c) (coreBulk k) r x.regs rc id fin

/-- A producer still in flight: not one held by PAGE_WAIT, which a stop abandons (R65). -/
def Producer.live (p : Producer) : Bool := match p.st with | .held (some _) => false | _ => true

/-- The producers that a stop abandons leave (R65): those held by PAGE_WAIT; the stored PC is that of the oldest. -/
def Ctx.abandon (x : Ctx) : Ctx :=
  match x.stop with
  | none => x
  | some st =>
    let gone := x.inflight.filter fun p => !p.live
    let st := match gone.head? with
      | some p => if p.seq < st.rseq then { st with resume := p.pc, rseq := p.seq } else st
      | none => st
    { x with inflight := x.inflight.filter Producer.live, stop := some st }

/-- A pending stop takes effect once every producer has written, faulted or been abandoned (R65). -/
def State.stopDone (s : State) (k c : Nat) : State :=
  let s := s.modCtx k c Ctx.abandon
  if (s.ctx k c).inflight.isEmpty then s.finishStop k c else s

/-- The send-buffer entries that f keeps, in the cores and in what is saved of switched-out VFs (R270, R289). -/
def State.keepSends (s : State) (f : SendEntry → Bool) : State :=
  let saved (v : SavedVf) : SavedVf := { v with sends := v.sends.filter fun e => f e.2 }
  { s with
    cores := s.cores.map fun c => (c.1, { c.2 with sendBuf := c.2.sendBuf.filter f })
    parts := s.parts.map fun p => (p.1, { p.2 with savedVfs := p.2.savedVfs.map saved }) }
/-- A send-buffer entry that is saved with a VF (R286, R288). -/
def savesSend (vf : Nat) (e : SendEntry) : Bool :=
  e.vf == vf && tidSlot e.msg.sender != 0 && !e.deep
/-- The entries that hold places of a send buffer (R270). -/
def placed (l : List SendEntry) : List SendEntry := l.filter fun e => !e.extra
/-- An entry that holds a blocked SEND, or the message of a blocked SENDN, of a thread (R271, R273). -/
def SendEntry.blocks (t : W32) (e : SendEntry) : Bool := e.msg.sender == t && (!e.posted || e.extra)
/-- The entry that holds a blocked SEND or SENDN of a thread is discarded (R270, R273). -/
def State.dropBlocked (s : State) (t : W32) : State := s.keepSends fun e => !e.blocks t

/-- The PC of a suspension-point instruction that has retired without effect yet (R19): it executes again after a stop. -/
def Ctx.suspPc (x : Ctx) : Susp → Word
  | .sleep none => x.pc - 2#64
  | .endT => x.pc - 2#64
  | .yield => x.pc - 2#64
  | _ => x.pc - 4#64

/-- TAKING A FAULT OR STOP, the one operation (R17, R65): the thread in context c of core k stops. A suspension point that
waited for its producers has had no effect (R19), so a SEND that had blocked leaves the send buffer. -/
def State.beginStop (s : State) (k c : Nat) (st : Stop) : State :=
  let s := match (s.ctx k c).susp with
    | some (.send _) => s.dropBlocked (s.ctx k c).tid
    | _ => s
  (s.modCtx k c fun x => { x with stop := some st, susp := none, wait := .none_ }).stopDone k c

/-- The PC a stop of a context records for its current instruction: a ONCE pair's own (R116, R319). -/
def Ctx.stopPc (c : Ctx) : Word := if c.onceQ.isSome then c.pc - 2#64 else c.pc

/-- The current instruction faults before it retires (R17, R318). -/
def State.fault (s : State) (code : Nat) (addr detail : Word) : State :=
  let pc := s.cc.stopPc
  let n := s.cc.retired + 1
  s.beginStop s.cur.1 s.cur.2
    { code := some code, pc := pc, resume := pc, addr := addr, detail := detail, late := false, seq := n, rseq := n,
      callers := [] }

/-- The current instruction has a request in a home queue (R151). -/
def State.inHomeQ (s : State) : Bool :=
  let me := s.homeWho (.ctx s.cur.1 s.cur.2)
  s.bulks.any fun b => b.2.homeQ.any fun r => some r.who == me && !r.served
/-- The current instruction is held by a translation, or at a home, and executes again (R160, R151); PAGE_WAIT writes a notice for
each page request (R330). -/
def State.hold (s : State) (page : Bool) (addr : Word) : State :=
  let want := if page then some (addr.toNat / 65536) else none
  let s := if page && s.cc.noticed != want then
      s.pageNotice (coreBulk s.cur.1) s.tid (s.coreField s.me.part s.cur.1) s.cc.stopPc addr
    else s
  let w : Wait := if s.inHomeQ then .homeQ else .xlat
  (s.modCur fun c => { c with noticed := want, begun := true }).waitFor w

/-- An access of the current thread: go on at the place, fault, or hold (R160). -/
def State.threadAccess (s : State) (a : Acc) (va : Word) (k : Place → State → State) : State :=
  match s.access s.ag a va with
  | (.ok p, s) => k p s
  | (.fault c d, s) => s.fault c va d
  | (.ats, s) => s.hold false va
  | (.page, s) => s.hold true va
  | (.bi, s) => s.hold false va

/-- THE RETURN FROM A FAULT (R309): a stopped record becomes ready with FAULTED 0, its registers as the stop block gave
them, or those of a suspension point with g5 = 0. -/
def State.restart (s : State) (t : W32) (img : Option Regs) : State :=
  (s.modRec t fun r => { r with faulted := false, image := img, deliver := false }).makeReady t

/-- A stop of a thread that holds no context: ready, sleeping or spilled (R17, R308). -/
def State.stopIdle (s : State) (t : W32) : State :=
  if s.resident t then
    (s.leaveQueues t).modRec t fun r =>
      { r with
        state := .stopped, sendwait := false, deadline := none, faulted := false, wokeDeadline := false, wokeWake := false,
        deliver := false, result := none, migrate := none }
  else s.modRec t fun r => { r with spillKind := 2#2, faulted := false, deadline := none, deliver := false, result := none }

end Sys2Proof.Machine
end

