-- ==== Sys2Proof/Machine/Operands.lean ====
section
/-! DEFINITION. The operand forms: which registers an instruction reads and writes (R64, R66, R68), elements and lanes of a
vector register (R81), effective addresses (R159), and the readiness of registers (R63, R64). -/

namespace Sys2Proof.Machine

/-- The v registers va and vb of a VF-form instruction whose latches A and B are not held (R68, R70). -/
def heldRegs (h : BitVec 3) (a b : VReg) : List Nat :=
  (if h.getLsbD 0 then [] else [a.toNat]) ++ (if h.getLsbD 1 then [] else [b.toNat])

/-- The g registers an instruction reads or writes (R64). -/
def gUses : Instr → List Nat
  | .add d a b => [d.toNat, a.toNat, b.toNat]
  | .sub d a b => [d.toNat, a.toNat, b.toNat]
  | .and d a b => [d.toNat, a.toNat, b.toNat]
  | .or d a b => [d.toNat, a.toNat, b.toNat]
  | .xor d a b => [d.toNat, a.toNat, b.toNat]
  | .shl d a b => [d.toNat, a.toNat, b.toNat]
  | .shr d a b => [d.toNat, a.toNat, b.toNat]
  | .sra d a b => [d.toNat, a.toNat, b.toNat]
  | .rot d a b => [d.toNat, a.toNat, b.toNat]
  | .min d a b => [d.toNat, a.toNat, b.toNat]
  | .max d a b => [d.toNat, a.toNat, b.toNat]
  | .minu d a b => [d.toNat, a.toNat, b.toNat]
  | .maxu d a b => [d.toNat, a.toNat, b.toNat]
  | .sel d a b => [d.toNat, a.toNat, b.toNat]
  | .slt d a b => [d.toNat, a.toNat, b.toNat]
  | .sltu d a b => [d.toNat, a.toNat, b.toNat]
  | .mul d a b => [d.toNat, a.toNat, b.toNat]
  | .mulh d a b => [d.toNat, a.toNat, b.toNat]
  | .mulhu d a b => [d.toNat, a.toNat, b.toNat]
  | .div d a b => [d.toNat, a.toNat, b.toNat]
  | .divu d a b => [d.toNat, a.toNat, b.toNat]
  | .rem d a b => [d.toNat, a.toNat, b.toNat]
  | .remu d a b => [d.toNat, a.toNat, b.toNat]
  | .clz d a => [d.toNat, a.toNat]
  | .ctz d a => [d.toNat, a.toNat]
  | .popc d a => [d.toNat, a.toNat]
  | .sext _ d a => [d.toNat, a.toNat]
  | .zext _ d a => [d.toNat, a.toNat]
  | .seq d a b => [d.toNat, a.toNat, b.toNat]
  | .sne d a b => [d.toNat, a.toNat, b.toNat]
  | .brev d a => [d.toNat, a.toNat]
  | .addi d a _ => [d.toNat, a.toNat]
  | .andi d a _ => [d.toNat, a.toNat]
  | .ori d a _ => [d.toNat, a.toNat]
  | .xori d a _ => [d.toNat, a.toNat]
  | .shli d a _ => [d.toNat, a.toNat]
  | .shri d a _ => [d.toNat, a.toNat]
  | .srai d a _ => [d.toNat, a.toNat]
  | .slti d a _ => [d.toNat, a.toNat]
  | .movi d _ => [d.toNat]
  | .lis d _ => [d.toNat]
  | .fadd _ _ d a b => [d.toNat, a.toNat, b.toNat]
  | .fsub _ _ d a b => [d.toNat, a.toNat, b.toNat]
  | .fmul _ _ d a b => [d.toNat, a.toNat, b.toNat]
  | .fdiv _ _ d a b => [d.toNat, a.toNat, b.toNat]
  | .fsqrt _ _ d a => [d.toNat, a.toNat]
  | .fmin _ d a b => [d.toNat, a.toNat, b.toNat]
  | .fmax _ d a b => [d.toNat, a.toNat, b.toNat]
  | .ffma _ _ d a b => [d.toNat, a.toNat, b.toNat]
  | .fcvt _ _ _ d a => [d.toNat, a.toNat]
  | .fclass _ d a => [d.toNat, a.toNat]
  | .feq _ d a b => [d.toNat, a.toNat, b.toNat]
  | .flt _ d a b => [d.toNat, a.toNat, b.toNat]
  | .fle _ d a b => [d.toNat, a.toNat, b.toNat]
  | .beq a b _ => [a.toNat, b.toNat]
  | .bne a b _ => [a.toNat, b.toNat]
  | .blt a b _ => [a.toNat, b.toNat]
  | .bge a b _ => [a.toNat, b.toNat]
  | .bltu a b _ => [a.toNat, b.toNat]
  | .bgeu a b _ => [a.toNat, b.toNat]
  | .jr a => [a.toNat]
  | .jalr d a => [d.toNat, a.toNat]
  | .sete _ _ a => [a.toNat]
  | .gete _ d _ => [d.toNat]
  | .rdts d => [d.toNat]
  | .rdid _ d => [d.toNat]
  | .ld _ _ _ d a _ => [d.toNat, a.toNat]
  | .lds _ _ _ d a _ => [d.toNat, a.toNat]
  | .st _ _ _ d a _ => [d.toNat, a.toNat]
  | .ldfe _ _ d a _ => [d.toNat, a.toNat]
  | .ldf _ _ d a _ => [d.toNat, a.toNat]
  | .stef _ _ d a _ => [d.toNat, a.toNat]
  | .stf _ _ d a _ => [d.toNat, a.toNat]
  | .feget d => [d.toNat]
  | .feset a => [a.toNat]
  | .pref _ _ a => [a.toNat]
  | .flush _ _ a => [a.toNat]
  | .gjoin d a => [d.toNat, a.toNat]
  | .gleave d a => [d.toNat, a.toNat]
  | .gload d a b => [d.toNat, a.toNat, b.toNat]
  | .amoAdd _ _ _ d a b => [d.toNat, a.toNat, b.toNat]
  | .amoAnd _ _ _ d a b => [d.toNat, a.toNat, b.toNat]
  | .amoOr _ _ _ d a b => [d.toNat, a.toNat, b.toNat]
  | .amoXor _ _ _ d a b => [d.toNat, a.toNat, b.toNat]
  | .amoMin _ _ _ d a b => [d.toNat, a.toNat, b.toNat]
  | .amoMax _ _ _ d a b => [d.toNat, a.toNat, b.toNat]
  | .amoMinu _ _ _ d a b => [d.toNat, a.toNat, b.toNat]
  | .amoMaxu _ _ _ d a b => [d.toNat, a.toNat, b.toNat]
  | .amoSwap _ _ _ d a b => [d.toNat, a.toNat, b.toNat]
  | .amoFadd _ _ _ d a b => [d.toNat, a.toNat, b.toNat]
  | .cas _ _ _ d a b => [d.toNat, a.toNat, b.toNat]
  | .vcmp _ m _ _ => [m.toNat]
  | .vsel m _ _ _ => [m.toNat]
  | .vtest _ m d _ _ => [m.toNat, d.toNat]
  | .vbcast _ _ a => [a.toNat]
  | .vred _ d _ => [d.toNat]
  | .vmovg _ d _ => [d.toNat]
  | .vlane _ _ a => [a.toNat]
  | .vld _ _ _ a _ => [a.toNat]
  | .vst _ _ _ a _ => [a.toNat]
  | .vlds _ _ a b => [a.toNat, b.toNat]
  | .vsts _ _ a b => [a.toNat, b.toNat]
  | .vgath _ _ a _ => [a.toNat]
  | .vscat _ _ a _ => [a.toNat]
  | .vstm _ _ a => [a.toNat]
  | .vldm _ _ a => [a.toNat]
  | .xclr _ a b => [a.toNat, b.toNat]
  | .xadd _ f a b => if f.isVec then [a.toNat] else [a.toNat, b.toNat]
  | .xmadd _ vec a b c => if vec then [a.toNat] else [a.toNat, b.toNat, c.toNat]
  | .xrnd _ _ _ d a => [d.toNat, a.toNat]
  | .xmerge _ a b => [a.toNat, b.toNat]
  | .mma _ d _ => [d.toNat]
  | .mmag _ d _ => [d.toNat]
  | .mzero _ d _ => [d.toNat]
  | .mload _ d _ => [d.toNat]
  | .mdrain _ d _ => [d.toNat]
  | .mdres d _ => [d.toNat]
  | .accrd _ _ a => [a.toNat]
  | .mstat d _ => [d.toNat]
  | .dpload _ d a b => [d.toNat, a.toNat, b.toNat]
  | .cpy _ d => [d.toNat]
  | .cpys _ d => [d.toNat]
  | .cpyg _ d => [d.toNat]
  | .fill _ d => [d.toNat]
  | .gate d a b => [d.toNat, a.toNat, b.toNat]
  | .watch d a => [d.toNat, a.toNat]
  | .unwatch d a => [d.toNat, a.toNat]
  | .unwatchAll d => [d.toNat]
  | .spawn d a => [d.toNat, a.toNat]
  | .migrate a => [a.toNat]
  | .wake d a => [d.toNat, a.toNat]
  | .sleepT a => [a.toNat]
  | .send d a => [d.toNat, a.toNat]
  | .sendn d a => [d.toNat, a.toNat]
  | .recv d a => [d.toNat, a.toNat]
  | .recvn d => [d.toNat]
  | .tstop d a => [d.toNat, a.toNat]
  | .tstart d a => [d.toNat, a.toNat]
  | .tread d a b => [d.toNat, a.toNat, b.toNat]
  | .treadTab d a b => [d.toNat, a.toNat, b.toNat]
  | .treadLog d a b => [d.toNat, a.toNat, b.toNat]
  | .twrite _ d a b => [d.toNat, a.toNat, b.toNat]
  | .twriteTab d a b => [d.toNat, a.toNat, b.toNat]
  | .treap d a => [d.toNat, a.toNat]
  | .tstat d a => [d.toNat, a.toNat]
  | .nest d a => [d.toNat, a.toNat]
  | .iter d a => [d.toNat, a.toNat]
  | .svc d a b => [d.toNat, a.toNat, b.toNat]
  | .codemap d a => [d.toNat, a.toNat]
  | .codemapRel d a => [d.toNat, a.toNat]
  | .xlinv d a b => [d.toNat, a.toNat, b.toNat]
  | .xlinvVf d => [d.toNat]
  | .xlinvAll d => [d.toNat]
  | .preempt d a b => [d.toNat, a.toNat, b.toNat]
  | .preemptWd d => [d.toNat]
  | .pcrd d a => [d.toNat, a.toNat]
  | .pcrdCtl d a => [d.toNat, a.toNat]
  | .pcset a b => [a.toNat, b.toNat]
  | .pcsetVal a b => [a.toNat, b.toNat]
  | .mov d s => [d.toNat, s.toNat]
  | .addiS d _ => [d.toNat]
  | .bz d _ => [d.toNat]
  | .bnz d _ => [d.toNat]
  | .ret => [31]
  | .lddS d b => [d.toNat, b.toNat]
  | .stdS d b => [d.toNat, b.toNat]
  | .shliS d _ => [d.toNat]
  | _ => []

/-- The first register of gUses is one the instruction reads; of every other instruction that has one, it is g(d), only written
(R64). -/
def readsFirst : Instr → Bool
  | .sel _ _ _ | .lis _ _ | .ffma _ _ _ _ _ => true
  | .beq _ _ _ | .bne _ _ _ | .blt _ _ _ | .bge _ _ _ | .bltu _ _ _ | .bgeu _ _ _ | .jr _ | .bz _ _ | .bnz _ _ | .ret => true
  | .sete _ _ _ | .feset _ | .pref _ _ _ | .flush _ _ _ => true
  | .st _ _ _ _ _ _ | .stef _ _ _ _ _ | .stf _ _ _ _ _ | .stdS _ _ | .cas _ _ _ _ _ _ => true
  | .migrate _ | .sleepT _ | .pcset _ _ | .pcsetVal _ _ | .addiS _ _ | .shliS _ _ => true
  | _ => false
/-- The g registers a scalar, memory or system instruction reads, and the one it only writes (R64, R99). -/
def gReads (i : Instr) : List Nat := if readsFirst i then gUses i else (gUses i).drop 1
def gOnlyWrites (i : Instr) : Option Nat :=
  match i with
  | .jal _ => some 31
  | _ => if readsFirst i then none else (gUses i).head?

/-- The v registers an instruction reads or writes (R64). -/
def vUses : Instr → List Nat
  | .vadd _ d a b => [d.toNat, a.toNat, b.toNat]
  | .vsub _ d a b => [d.toNat, a.toNat, b.toNat]
  | .vmul _ d a b => [d.toNat, a.toNat, b.toNat]
  | .vdiv _ d a b => [d.toNat, a.toNat, b.toNat]
  | .vmin _ d a b => [d.toNat, a.toNat, b.toNat]
  | .vmax _ d a b => [d.toNat, a.toNat, b.toNat]
  | .vabs _ d a => [d.toNat, a.toNat]
  | .vneg _ d a => [d.toNat, a.toNat]
  | .vsqrt _ d a => [d.toNat, a.toNat]
  | .vrcp _ d a => [d.toNat, a.toNat]
  | .vrsq _ d a => [d.toNat, a.toNat]
  | .vexp2 _ d a => [d.toNat, a.toNat]
  | .vlog2 _ d a => [d.toNat, a.toNat]
  | .vaddI _ d a b => [d.toNat, a.toNat, b.toNat]
  | .vsubI _ d a b => [d.toNat, a.toNat, b.toNat]
  | .vmulI _ d a b => [d.toNat, a.toNat, b.toNat]
  | .vminI _ d a b => [d.toNat, a.toNat, b.toNat]
  | .vmaxI _ d a b => [d.toNat, a.toNat, b.toNat]
  | .vminuI _ d a b => [d.toNat, a.toNat, b.toNat]
  | .vmaxuI _ d a b => [d.toNat, a.toNat, b.toNat]
  | .vshlI _ d a b => [d.toNat, a.toNat, b.toNat]
  | .vshrI _ d a b => [d.toNat, a.toNat, b.toNat]
  | .vsraI _ d a b => [d.toNat, a.toNat, b.toNat]
  | .vandI _ d a b => [d.toNat, a.toNat, b.toNat]
  | .vorI _ d a b => [d.toNat, a.toNat, b.toNat]
  | .vxorI _ d a b => [d.toNat, a.toNat, b.toNat]
  | .vfmaBcast h _ _ d a b => heldRegs h a b ++ [d.toNat]
  | .vfma h _ d a b => heldRegs h a b ++ [d.toNat]
  | .vfms h _ d a b => heldRegs h a b ++ [d.toNat]
  | .vfnma h _ d a b => heldRegs h a b ++ [d.toNat]
  | .vcmp _ _ a b => [a.toNat, b.toNat]
  | .vsel _ d a b => [d.toNat, a.toNat, b.toNat]
  | .vtest _ _ _ a b => [a.toNat, b.toNat]
  | .vcvt c d a b => if c.twoSource then [d.toNat, a.toNat, b.toNat] else [d.toNat, a.toNat]
  | .vpack _ d a b => [d.toNat, a.toNat, b.toNat]
  | .vunpk _ _ d a => [d.toNat, a.toNat]
  | .vscale _ d a b => [d.toNat, a.toNat, b.toNat]
  | .vperm _ d a b => [d.toNat, a.toNat, b.toNat]
  | .vbcast _ d _ => [d.toNat]
  | .vred _ _ a => [a.toNat]
  | .vmovg _ _ a => [a.toNat]
  | .vmovv d a => [d.toNat, a.toNat]
  | .vlane _ d _ => [d.toNat]
  | .vld _ _ d _ _ => [d.toNat]
  | .vst _ _ d _ _ => [d.toNat]
  | .vlds _ d _ _ => [d.toNat]
  | .vsts _ d _ _ => [d.toNat]
  | .vgath _ d _ b => [d.toNat, b.toNat]
  | .vscat _ d _ b => [d.toNat, b.toNat]
  | .vstm n1 d _ => (List.range (n1.toNat + 1)).map fun j => d.toNat + j
  | .vldm n1 d _ => (List.range (n1.toNat + 1)).map fun j => d.toNat + j
  | .xadd _ f _ b => if f.isVec then [b.toNat] else []
  | .xmadd _ vec _ b c => if vec then [b.toNat, c.toNat] else []
  | .accrd d _ _ => [d.toNat]
  | _ => []

/-- The v registers an instruction reads from the vector file (R66). -/
def vReads : Instr → List Nat
  | .vadd _ _ a b => [a.toNat, b.toNat]
  | .vsub _ _ a b => [a.toNat, b.toNat]
  | .vmul _ _ a b => [a.toNat, b.toNat]
  | .vdiv _ _ a b => [a.toNat, b.toNat]
  | .vmin _ _ a b => [a.toNat, b.toNat]
  | .vmax _ _ a b => [a.toNat, b.toNat]
  | .vabs _ _ a => [a.toNat]
  | .vneg _ _ a => [a.toNat]
  | .vsqrt _ _ a => [a.toNat]
  | .vrcp _ _ a => [a.toNat]
  | .vrsq _ _ a => [a.toNat]
  | .vexp2 _ _ a => [a.toNat]
  | .vlog2 _ _ a => [a.toNat]
  | .vaddI _ _ a b => [a.toNat, b.toNat]
  | .vsubI _ _ a b => [a.toNat, b.toNat]
  | .vmulI _ _ a b => [a.toNat, b.toNat]
  | .vminI _ _ a b => [a.toNat, b.toNat]
  | .vmaxI _ _ a b => [a.toNat, b.toNat]
  | .vminuI _ _ a b => [a.toNat, b.toNat]
  | .vmaxuI _ _ a b => [a.toNat, b.toNat]
  | .vshlI _ _ a b => [a.toNat, b.toNat]
  | .vshrI _ _ a b => [a.toNat, b.toNat]
  | .vsraI _ _ a b => [a.toNat, b.toNat]
  | .vandI _ _ a b => [a.toNat, b.toNat]
  | .vorI _ _ a b => [a.toNat, b.toNat]
  | .vxorI _ _ a b => [a.toNat, b.toNat]
  | .vfmaBcast h _ _ d a b => heldRegs h a b ++ (if h.getLsbD 2 then [] else [d.toNat])
  | .vfma h _ d a b => heldRegs h a b ++ (if h.getLsbD 2 then [] else [d.toNat])
  | .vfms h _ d a b => heldRegs h a b ++ (if h.getLsbD 2 then [] else [d.toNat])
  | .vfnma h _ d a b => heldRegs h a b ++ (if h.getLsbD 2 then [] else [d.toNat])
  | .vcmp _ _ a b => [a.toNat, b.toNat]
  | .vsel _ _ a b => [a.toNat, b.toNat]
  | .vtest _ _ _ a b => [a.toNat, b.toNat]
  | .vcvt c _ a b => if c.twoSource then [a.toNat, b.toNat] else [a.toNat]
  | .vpack _ _ a b => [a.toNat, b.toNat]
  | .vunpk _ _ _ a => [a.toNat]
  | .vscale _ _ a b => [a.toNat, b.toNat]
  | .vperm _ _ a b => [a.toNat, b.toNat]
  | .vred _ _ a => [a.toNat]
  | .vmovg _ _ a => [a.toNat]
  | .vmovv _ a => [a.toNat]
  | .vlane ix d _ => if ix.toNat = 24 then [] else [d.toNat]
  | .vst _ _ d _ _ => [d.toNat]
  | .vsts _ d _ _ => [d.toNat]
  | .vgath _ _ _ b => [b.toNat]
  | .vscat _ d _ b => [d.toNat, b.toNat]
  | .vstm n1 d _ => (List.range (n1.toNat + 1)).map fun j => d.toNat + j
  | .xadd _ f _ b => if f.isVec then [b.toNat] else []
  | .xmadd _ vec _ b c => if vec then [b.toNat, c.toNat] else []
  | _ => []


/-- A g register is full: g0 and g31 carry no bit (R61). -/
def Ctx.gFull (c : Ctx) (n : Nat) : Bool := n == 0 || n == 31 || !c.gEmpty.getLsbD n
/-- A v register is full. -/
def Ctx.vFull (c : Ctx) (n : Nat) : Bool := !c.vEmpty.getLsbD n
/-- Every register the instruction reads or writes is full (R64). -/
def Ctx.regsFull (c : Ctx) (i : Instr) : Bool := (gUses i).all c.gFull && (vUses i).all c.vFull
/-- g1-g4 are full, as a suspension point needs (R19). -/
def Ctx.carryFull (c : Ctx) : Bool := [1, 2, 3, 4].all c.gFull

/-- A destination marked empty or full (R63). -/
def Ctx.markG (c : Ctx) (n : Nat) (empty : Bool) : Ctx :=
  if n = 0 ∨ n = 31 then c
  else { c with gEmpty := if empty then c.gEmpty ||| BitVec.ofNat 32 (2 ^ n) else c.gEmpty &&& ~~~(BitVec.ofNat 32 (2 ^ n)) }
def Ctx.markV (c : Ctx) (n : Nat) (empty : Bool) : Ctx :=
  { c with vEmpty := if empty then c.vEmpty ||| BitVec.ofNat 32 (2 ^ n) else c.vEmpty &&& ~~~(BitVec.ofNat 32 (2 ^ n)) }
/-- The registers of a destination. -/
def Ctx.mark (c : Ctx) (empty : Bool) : Dest → Ctx
  | .g n => c.markG n empty
  | .v n k => (List.range k).foldl (fun c j => c.markV (n + j) empty) c

/-- The number of times a list names one of the registers of bank b, each register once (R66). -/
def bankReads (l : List Nat) (b : Nat) : Nat := (l.eraseDups.filter fun n => n % 6 = b).length
/-- The extra cycles X of an instruction (R66). -/
def bankX (i : Instr) : Nat := ((List.range 6).map (bankReads (vReads i))).foldl max 0 - 1

/-- Bytes of an element or access size (R40). -/
def sizeBytes : Size → Nat
  | .b => 1 | .h => 2 | .w => 4 | .d => 8
/-- Element i of n bits of a vector (R81). -/
def elem (n : Nat) (x : Vec) (i : Nat) : Nat := (x.toNat >>> (n * i)) % 2 ^ n
/-- A vector from its elements of n bits, the first lowest (R81). -/
def packNat (n : Nat) : List Nat → Nat
  | [] => 0
  | x :: xs => x % 2 ^ n + 2 ^ n * packNat n xs
def pack (n : Nat) (xs : List Nat) : Vec := BitVec.ofNat 512 (packNat n xs)
/-- Every element computed from its index. -/
def vmap (n : Nat) (f : Nat → Nat) : Vec := pack n ((List.range (512 / n)).map f)
/-- A signed reading of an n-bit number. -/
def signed (n x : Nat) : Int := if x % 2 ^ n < 2 ^ (n - 1) then ((x % 2 ^ n : Nat) : Int) else ((x % 2 ^ n : Nat) : Int) - (2 : Int) ^ n
/-- The n-bit number of an integer, wrapping (R75). -/
def wrap (n : Nat) (x : Int) : Nat := (x % (2 : Int) ^ n).toNat

/-- The effective address of the MEM format (R159): g(a) + sext(off8) × n. -/
def effAddr (base : Word) (off : BitVec 8) (n : Nat) : Word := base + off.signExtend 64 * BitVec.ofNat 64 n

end Sys2Proof.Machine
end

