-- ==== Sys2Proof/Machine/Flags.lean ====
section
/-! DEFINITION. The floating-point conditions (R107, R122) and env, where they are recorded (R174). -/

namespace Sys2Proof.Machine

/-- The IEEE 754 conditions an operation raises (R107). -/
structure Cond where
  nx : Bool
  uf : Bool
  of : Bool
  dz : Bool
  nv : Bool
  deriving DecidableEq, Repr

/-- No condition. -/
def Cond.none_ : Cond := { nx := false, uf := false, of := false, dz := false, nv := false }
/-- Invalid alone, divide by zero alone, inexact alone. -/
def Cond.invalid : Cond := { Cond.none_ with nv := true }
def Cond.divZero : Cond := { Cond.none_ with dz := true }
def Cond.inexact : Cond := { Cond.none_ with nx := true }
/-- The conditions of several lanes (R122). -/
def Cond.or (a b : Cond) : Cond :=
  { nx := a.nx || b.nx, uf := a.uf || b.uf, of := a.of || b.of, dz := a.dz || b.dz, nv := a.nv || b.nv }
def Cond.all (l : List Cond) : Cond := l.foldl Cond.or Cond.none_
/-- Their places in env: [0] NX, [1] UF, [2] OF, [3] DZ, [4] NV (R174). -/
def Cond.bits (c : Cond) : Word :=
  BitVec.ofNat 64 (c.nx.toNat + 2 * c.uf.toNat + 4 * c.of.toNat + 8 * c.dz.toNat + 16 * c.nv.toNat)
/-- The conditions are recorded, sticky, in the current context's env (R174). -/
def State.raise (s : State) (c : Cond) : State := s.modCur fun x => x.modRegs fun r => { r with env := r.env ||| c.bits }

end Sys2Proof.Machine
end

