-- ==== Sys2Proof/Machine/Float.lean ====
section
/-! DEFINITION. Number formats and exact arithmetic with one rounding (R76-R88): decoding to exact values, rounding and
encoding, the IEEE operations, the correctly rounded functions, conversions, q4 blocks (R82-R85). -/

namespace Sys2Proof.Machine

/-- What E = all ones means in a format (R77): ±∞ and NaN, NaN for the top code only, or ordinary numbers. -/
inductive Special | ieee | topNan | none_ deriving DecidableEq, Repr

/-- A floating-point format (R76, R77): exponent and mantissa bits, bias, the largest finite code, the canonical NaN. -/
structure Fmt where
  w : Nat
  m : Nat
  bias : Nat
  special : Special
  maxCode : Nat
  nan : Nat
  deriving DecidableEq, Repr

def fp64 : Fmt := { w := 11, m := 52, bias := 1023, special := .ieee, maxCode := 0x7fefffffffffffff, nan := 0x7ff8000000000000 }
def fp32 : Fmt := { w := 8, m := 23, bias := 127, special := .ieee, maxCode := 0x7f7fffff, nan := 0x7fc00000 }
def bf16 : Fmt := { w := 8, m := 7, bias := 127, special := .ieee, maxCode := 0x7f7f, nan := 0x7fc0 }
def fp16 : Fmt := { w := 5, m := 10, bias := 15, special := .ieee, maxCode := 0x7bff, nan := 0x7e00 }
def e5m2 : Fmt := { w := 5, m := 2, bias := 15, special := .ieee, maxCode := 0x7b, nan := 0x7f }
def e4m3 : Fmt := { w := 4, m := 3, bias := 7, special := .topNan, maxCode := 0x7e, nan := 0x7f }
def e3m2 : Fmt := { w := 3, m := 2, bias := 3, special := .none_, maxCode := 0x1f, nan := 0 }
def e2m3 : Fmt := { w := 2, m := 3, bias := 1, special := .none_, maxCode := 0x1f, nan := 0 }

/-- Bits of a code. -/
def Fmt.width (f : Fmt) : Nat := 1 + f.w + f.m

/-- An exact value: NaN, ±∞, or (−1)^neg × man × 2^exp; man = 0 is a zero of that sign. -/
inductive Fv
  | nan
  | inf (neg : Bool)
  | fin (neg : Bool) (man : Nat) (exp : Int)
  deriving DecidableEq, Repr

/-- The value of a code (R76, R77). -/
def Fmt.value (f : Fmt) (c : Nat) : Fv :=
  let neg := c.testBit (f.w + f.m)
  let e := (c >>> f.m) % 2 ^ f.w
  let m := c % 2 ^ f.m
  let lo : Int := 1 - (f.bias : Int) - (f.m : Int)
  if e = 0 then .fin neg m lo
  else if e = 2 ^ f.w - 1 ∧ f.special = .ieee then (if m = 0 then .inf neg else .nan)
  else if e = 2 ^ f.w - 1 ∧ f.special = .topNan ∧ m = 2 ^ f.m - 1 then .nan
  else .fin neg (2 ^ f.m + m) ((e : Int) - 1 + lo)

/-- Whether a discarded part rounds the magnitude up (R86): `rem` of `2 ^ sh` was dropped below `q`. -/
def roundUp (rm : Rm) (neg : Bool) (q rem sh : Nat) : Bool :=
  match rm with
  | .rne => decide (2 ^ sh < 2 * rem) || (decide (2 * rem = 2 ^ sh) && q % 2 == 1)
  | .rtz => false
  | .rdn => neg && decide (rem ≠ 0)
  | .rup => !neg && decide (rem ≠ 0)
  | .rmm => decide (2 ^ sh ≤ 2 * rem)

/-- man × 2^exp as a multiple of 2^q by the mode, and whether it is exact. -/
def roundAt (rm : Rm) (neg : Bool) (man : Nat) (exp q : Int) : Nat × Bool :=
  if q ≤ exp then (man * 2 ^ (exp - q).toNat, true)
  else
    let sh := (q - exp).toNat
    let n := man >>> sh
    let rem := man % 2 ^ sh
    (if roundUp rm neg n rem sh then n + 1 else n, rem == 0)

/-- The result of a rounded value beyond the largest finite one (R87). -/
def Fmt.overflow (f : Fmt) (rm : Rm) (neg : Bool) : Nat :=
  let inf := (2 ^ f.w - 1) * 2 ^ f.m
  if f.m < 7 then f.maxCode
  else match rm with
    | .rne => inf
    | .rmm => inf
    | .rtz => f.maxCode
    | .rdn => if neg then inf else f.maxCode
    | .rup => if neg then f.maxCode else inf

/-- The sign bit of a format in place. -/
def Fmt.sign (f : Fmt) (neg : Bool) : Nat := if neg then 2 ^ (f.w + f.m) else 0

/-- The wide formats raise overflow and underflow; the narrow ones saturate and raise invalid (R107, R122). -/
def Fmt.narrow (f : Fmt) : Bool := decide (f.m < 7)

/-- (−1)^neg × man × 2^exp rounded once to a format (R86, R87), with its conditions (R107, R122). Whether a narrow format saturates
is judged on the rounded value (log 92). -/
def Fmt.round (f : Fmt) (rm : Rm) (neg : Bool) (man : Nat) (exp : Int) : Nat × Cond :=
  if man = 0 then (f.sign neg, Cond.none_)
  else
    let emin : Int := 1 - (f.bias : Int)
    let e : Int := (man.log2 : Int) + exp
    let q : Int := max e emin - (f.m : Int)
    let (n, exact) := roundAt rm neg man exp q
    -- 2^m ≤ n for a normal result; a carry out gives the next exponent's first code by itself
    let code := if n < 2 ^ f.m then n else ((q + (f.m : Int) + (f.bias : Int)).toNat - 1) * 2 ^ f.m + n
    if f.maxCode < code then
      (f.sign neg + f.overflow rm neg,
        if f.narrow then { Cond.none_ with nv := true, nx := true } else { Cond.none_ with of := true, nx := true })
    else
      -- tiny after rounding: rounded with unbounded exponent, still below the least normal
      let tiny := decide (e < emin) && decide ((roundAt rm neg man exp (e - (f.m : Int))).1 < 2 ^ (f.m + (emin - e).toNat))
      (f.sign neg + code,
        { Cond.none_ with nx := !exact, uf := !exact && tiny && !f.narrow })

/-- A value rounded to a format (R87): infinities and NaN by its table. -/
def Fmt.encode (f : Fmt) (rm : Rm) (x : Fv) : Nat × Cond :=
  match x with
  | .nan => (f.nan, if f.special = .none_ then Cond.invalid else Cond.none_)
  | .inf neg =>
    if f.special = .ieee then (f.sign neg + (2 ^ f.w - 1) * 2 ^ f.m, Cond.none_)
    else (f.sign neg + f.maxCode, Cond.invalid)
  | .fin neg man exp => f.round rm neg man exp

/-- An exact sum of two finite values; the sign of an exact zero is IEEE 754's. -/
def addFin (rm : Rm) (na : Bool) (ma : Nat) (ea : Int) (nb : Bool) (mb : Nat) (eb : Int) : Fv :=
  let e := min ea eb
  let a : Int := (ma * 2 ^ (ea - e).toNat : Nat)
  let b : Int := (mb * 2 ^ (eb - e).toNat : Nat)
  let t := (if na then -a else a) + (if nb then -b else b)
  if t = 0 then .fin (if na = nb then na else decide (rm = .rdn)) 0 0
  else .fin (decide (t < 0)) t.natAbs e

/-- x + y, exactly. -/
def Fv.add (rm : Rm) : Fv → Fv → Fv × Cond
  | .nan, _ => (.nan, Cond.none_)
  | .inf _, .nan => (.nan, Cond.none_)
  | .fin _ _ _, .nan => (.nan, Cond.none_)
  | .inf a, .inf b => if a = b then (.inf a, Cond.none_) else (.nan, Cond.invalid)
  | .inf a, .fin _ _ _ => (.inf a, Cond.none_)
  | .fin _ _ _, .inf b => (.inf b, Cond.none_)
  | .fin na ma ea, .fin nb mb eb => (addFin rm na ma ea nb mb eb, Cond.none_)

/-- −x. -/
def Fv.neg : Fv → Fv
  | .nan => .nan
  | .inf n => .inf !n
  | .fin n m e => .fin (!n) m e
/-- Its sign; a NaN has none. -/
def Fv.sign : Fv → Bool
  | .nan => false
  | .inf n => n
  | .fin n _ _ => n
def Fv.isZero : Fv → Bool
  | .fin _ m _ => m == 0
  | _ => false
def Fv.isNan : Fv → Bool
  | .nan => true
  | _ => false
def Fv.isInf : Fv → Bool
  | .inf _ => true
  | _ => false

/-- x × y, exactly. -/
def Fv.mul : Fv → Fv → Fv × Cond
  | .nan, _ => (.nan, Cond.none_)
  | .inf _, .nan => (.nan, Cond.none_)
  | .fin _ _ _, .nan => (.nan, Cond.none_)
  | .inf a, .inf b => (.inf (a != b), Cond.none_)
  | .inf a, .fin b m _ => if m = 0 then (.nan, Cond.invalid) else (.inf (a != b), Cond.none_)
  | .fin a m _, .inf b => if m = 0 then (.nan, Cond.invalid) else (.inf (a != b), Cond.none_)
  | .fin a ma ea, .fin b mb eb => (.fin (a != b) (ma * mb) (ea + eb), Cond.none_)

/-- A value whose low bits are not all known: 2 q + 1 stands for anything strictly between q and q + 1. -/
def sticky (q : Nat) (exact : Bool) (e : Int) (neg : Bool) : Fv := .fin neg (2 * q + (if exact then 0 else 1)) (e - 1)

/-- x / y to enough bits that one rounding of it is the rounding of the exact quotient. -/
def Fv.div : Fv → Fv → Fv × Cond
  | .nan, _ => (.nan, Cond.none_)
  | .inf _, .nan => (.nan, Cond.none_)
  | .fin _ _ _, .nan => (.nan, Cond.none_)
  | .inf _, .inf _ => (.nan, Cond.invalid)
  | .inf a, .fin b _ _ => (.inf (a != b), Cond.none_)
  | .fin a _ _, .inf b => (.fin (a != b) 0 0, Cond.none_)
  | .fin a ma ea, .fin b mb eb =>
    if mb = 0 then (if ma = 0 then (.nan, Cond.invalid) else (.inf (a != b), Cond.divZero))
    else if ma = 0 then (.fin (a != b) 0 0, Cond.none_)
    else
      let n := ma * 2 ^ 200
      (sticky (n / mb) (n % mb == 0) (ea - eb - 200) (a != b), Cond.none_)

/-- Newton's steps toward the integer square root from above. -/
def isqrtStep (n : Nat) : Nat → Nat → Nat
  | 0, x => x
  | k + 1, x => let y := (x + n / x) / 2; if y < x then isqrtStep n k y else x
/-- The integer square root. -/
def isqrt (n : Nat) : Nat := if n = 0 then 0 else isqrtStep n 64 (2 ^ (n.log2 / 2 + 1))

/-- √x, with invalid below −0 (R107, R124). -/
def Fv.sqrt : Fv → Fv × Cond
  | .nan => (.nan, Cond.none_)
  | .inf n => if n then (.nan, Cond.invalid) else (.inf false, Cond.none_)
  | .fin n m e =>
    if m = 0 then (.fin n 0 0, Cond.none_)
    else if n then (.nan, Cond.invalid)
    else
      let odd := decide (e % 2 ≠ 0)
      let M := (if odd then 2 * m else m) * 2 ^ 240
      let E := (if odd then e - 1 else e) - 240
      let r := isqrt M
      (sticky r (r * r == M) (E / 2) false, Cond.none_)

/-- 1 / √x (R124). -/
def Fv.rsqrt : Fv → Fv × Cond
  | .nan => (.nan, Cond.none_)
  | .inf n => if n then (.nan, Cond.invalid) else (.fin false 0 0, Cond.none_)
  | .fin n m e =>
    if m = 0 then (.inf n, Cond.divZero)
    else if n then (.nan, Cond.invalid)
    else
      let odd := decide (e % 2 ≠ 0)
      let M := if odd then 2 * m else m
      let E := if odd then e - 1 else e
      let K : Nat := 200
      let r := isqrt (2 ^ (2 * K) / M)
      (sticky r (r * r * M == 2 ^ (2 * K)) (-(K : Int) - E / 2) false, Cond.none_)

/-- Bits of the fixed-point fractions of 2^x and log2 x (log 9). -/
def fixBits : Nat := 320
/-- ln 2 × 2^320, cut. -/
def ln2Fix : Nat := 0xb17217f7d1cf79abc9e3b39803f2f6af40f343267298b62d8a0d175b8baafa2be7b876206debac98

/-- The series of e^z for a fixed-point z below 1: k terms still to come, the current term, its index. -/
def expSeries (z : Nat) : Nat → Nat → Nat → Nat
  | 0, _, _ => 0
  | k + 1, term, i => term + expSeries z k ((term * z) >>> fixBits / i) (i + 1)

/-- 2^x: exact for an integer, else its value cut to 320 fraction bits (log 9). -/
def Fv.exp2 : Fv → Fv × Cond
  | .nan => (.nan, Cond.none_)
  | .inf n => (if n then .fin false 0 0 else .inf false, Cond.none_)
  | .fin n m e =>
    if m = 0 then (.fin false 1 0, Cond.none_)
    else if 13 < (m.log2 : Int) + e then
      -- |x| ≥ 2^14: beyond every format
      (.fin false 3 (if n then -20000 else 20000), Cond.none_)
    else if (m.log2 : Int) + e < -150 then
      (sticky (if n then 2 ^ 300 - 1 else 2 ^ 300) false (-300) false, Cond.none_)
    else
      let f : Nat := if 0 ≤ e then m * 2 ^ (e.toNat + fixBits) else if (-e).toNat ≤ fixBits then m * 2 ^ (fixBits - (-e).toNat) else m >>> ((-e).toNat - fixBits)
      let x : Int := if n then -(f : Int) else f
      let ip : Int := x / (2 : Int) ^ fixBits
      let fr : Nat := (x % (2 : Int) ^ fixBits).toNat
      if fr = 0 then (.fin false 1 ip, Cond.none_)
      else
        let z := (fr * ln2Fix) >>> fixBits
        (sticky (expSeries z 100 (2 ^ fixBits) 1) false (ip - (fixBits : Int)) false, Cond.none_)

/-- The series of atanh z / z's odd powers: term z^(2i+1), divided by 2i + 1. -/
def atanhSeries (zz : Nat) : Nat → Nat → Nat → Nat
  | 0, _, _ => 0
  | k + 1, term, i => term / (2 * i + 1) + atanhSeries zz k ((term * zz) >>> fixBits) (i + 1)

/-- log2 x: exact for a power of two, else its value cut to 320 fraction bits (log 9). -/
def Fv.log2 : Fv → Fv × Cond
  | .nan => (.nan, Cond.none_)
  | .inf n => if n then (.nan, Cond.invalid) else (.inf false, Cond.none_)
  | .fin n m e =>
    if m = 0 then (.inf true, Cond.divZero)
    else if n then (.nan, Cond.invalid)
    else
      let l := m.log2
      let E : Int := (l : Int) + e
      if m = 2 ^ l then (if E = 0 then (.fin false 0 0, Cond.none_) else (.fin (decide (E < 0)) E.natAbs 0, Cond.none_))
      else
        -- m / 2^l in (1, 2); z = (m - 2^l) / (m + 2^l)
        let z := ((m - 2 ^ l) * 2 ^ fixBits) / (m + 2 ^ l)
        let s := 2 * atanhSeries ((z * z) >>> fixBits) 110 z 0
        let fr := (s * 2 ^ fixBits) / ln2Fix
        let t : Int := E * (2 : Int) ^ fixBits + (fr : Int)
        if 0 ≤ t then (sticky t.toNat false (-(fixBits : Int)) false, Cond.none_)
        else (sticky ((-t).toNat - 1) false (-(fixBits : Int)) true, Cond.none_)

/-- x < y for finite and infinite values; zeros are equal. -/
def Fv.lt (x y : Fv) : Bool :=
  match x, y with
  | .nan, _ => false
  | .inf _, .nan => false
  | .fin _ _ _, .nan => false
  | .inf a, .inf b => a && !b
  | .inf a, .fin _ _ _ => a
  | .fin _ _ _, .inf b => !b
  | .fin na ma ea, .fin nb mb eb =>
    let e := min ea eb
    let a : Int := (ma * 2 ^ (ea - e).toNat : Nat)
    let b : Int := (mb * 2 ^ (eb - e).toNat : Nat)
    decide ((if na then -a else a) < (if nb then -b else b))
/-- x = y; −0 = +0; false with a NaN. -/
def Fv.eq (x y : Fv) : Bool := !x.isNan && !y.isNan && !x.lt y && !y.lt x
/-- x below y where −0 orders below +0 (R80). -/
def Fv.below (x y : Fv) : Bool := x.lt y || (x.isZero && y.isZero && x.sign && !y.sign)
/-- The lesser and the greater (R80). -/
def Fv.min (x y : Fv) : Fv := if x.isNan then y else if y.isNan then x else if y.below x then y else x
def Fv.max (x y : Fv) : Fv := if x.isNan then y else if y.isNan then x else if x.below y then y else x

/-- A value rounded to an integer by the mode, and whether it is exact. -/
def roundInt (rm : Rm) (neg : Bool) (man : Nat) (exp : Int) : Int × Bool :=
  let (n, ex) := roundAt rm neg man exp 0
  (if neg then -(n : Int) else n, ex)

/-- A conversion to an integer of the range lo..hi (R88), with its conditions (R107, R122): the range is judged on the rounded value
(log 92). -/
def Fv.toInt (rm : Rm) (lo hi : Int) (x : Fv) : Int × Cond :=
  match x with
  | .nan => (0, Cond.invalid)
  | .inf n => (if n then lo else hi, Cond.invalid)
  | .fin n m e =>
    let (t, ex) := roundInt rm n m e
    if t < lo then (lo, Cond.invalid) else if hi < t then (hi, Cond.invalid)
    else (t, if ex then Cond.none_ else Cond.inexact)

/-- An integer as a value. -/
def Fv.ofInt (x : Int) : Fv := .fin (decide (x < 0)) x.natAbs 0

/-- The class bit of a code (R106). -/
def Fmt.classBit (f : Fmt) (c : Nat) : Nat :=
  match f.value c with
  | .nan => if c.testBit (f.m - 1) then 9 else 8
  | .inf n => if n then 0 else 7
  | .fin n m _ =>
    if m = 0 then (if n then 3 else 4)
    else if m < 2 ^ f.m then (if n then 2 else 5) else (if n then 1 else 6)

/-- An operation on two codes of a format, rounded once (R86). -/
def Fmt.op2 (f : Fmt) (rm : Rm) (g : Fv → Fv → Fv × Cond) (x y : Nat) : Nat × Cond :=
  let (v, c) := g (f.value x) (f.value y)
  let (r, d) := f.encode rm v
  (r, c.or d)
/-- An operation on one code. -/
def Fmt.op1 (f : Fmt) (rm : Rm) (g : Fv → Fv × Cond) (x : Nat) : Nat × Cond :=
  let (v, c) := g (f.value x)
  let (r, d) := f.encode rm v
  (r, c.or d)

/-- x × y + c with one rounding (R86, R127). -/
def Fmt.fma (f : Fmt) (rm : Rm) (x y c : Fv) : Nat × Cond :=
  let (p, e) := x.mul y
  let (t, g) := p.add rm c
  let (r, h) := f.encode rm (if c.isNan then .nan else t)
  (r, (if x.isNan || y.isNan || c.isNan then (if x.isNan || y.isNan then Cond.none_ else e) else e.or g).or h)

/-- A minimum or maximum of two codes (R80): the chosen code, a NaN canonical. -/
def Fmt.minmax (f : Fmt) (g : Fv → Fv → Fv) (x y : Nat) : Nat := (f.encode .rne (g (f.value x) (f.value y))).1

/-- x × 2^n; an n beyond ± 2^14 rounds in every format as ± 2^14 does. -/
def Fv.scale (x : Fv) (n : Int) : Fv :=
  match x with
  | .fin s m e => .fin s m (e + (if n < -16384 then -16384 else if 16384 < n then 16384 else n))
  | v => v

/-- Value of a q4 code of a kind (R83), in quarters. -/
def q4Quarters (kind c : Nat) : Int :=
  let j := c % 8
  let mag : Nat := match kind with
    | 1 => [0, 2, 4, 6, 8, 12, 16, 24].getD j 0
    | 2 => if j = 0 then 0 else 2 ^ (j - 1)
    | _ => [0, 4, 8, 12, 16, 24, 32, 48].getD j 0
  if kind = 0 then 4 * signed 4 c
  else if c < 8 then (mag : Int) else -(mag : Int)
/-- The value of an element of a q4 block (R84). -/
def q4Value (sb c : Nat) : Fv :=
  let e := sb % 64
  if e = 63 then .nan
  else
    let q := q4Quarters (sb / 64) c
    .fin (decide (q < 0)) q.natAbs ((e : Int) - 34)

/-- Largest magnitude of a kind, in quarters, for the scale of a block (R85). -/
def q4Max (kind : Nat) : Nat := match kind with | 0 => 28 | 1 => 24 | 2 => 64 | _ => 48

/-- The least n with 2^n ≥ (m × 2^e) / (k / 4) (R85). -/
def ceilLog2 (m : Nat) (e : Int) (k : Nat) : Int :=
  -- compare 4 m 2^e with k 2^n; start below and step up
  let n0 : Int := (m.log2 : Int) + e - (k.log2 : Int)
  let ok (n : Int) : Bool :=
    let d := e + 2 - n
    if 0 ≤ d then decide (m * 2 ^ d.toNat ≤ k) else decide (m ≤ k * 2 ^ (-d).toNat)
  if ok n0 then n0 else if ok (n0 + 1) then n0 + 1 else if ok (n0 + 2) then n0 + 2 else n0 + 3

/-- |y − q / 4| scaled by 4 × 2^-e where y = ± m × 2^e, as a natural number over a common exponent. -/
def q4Dist (neg : Bool) (m : Nat) (e : Int) (q : Int) : Nat :=
  let d := min (e + 2) 0
  let y : Int := (m * 2 ^ (e + 2 - d).toNat : Nat)
  let t : Int := q * (2 : Int) ^ (-d).toNat
  ((if neg then -y else y) - t).natAbs

/-- The better of two candidate codes: nearer, and on a tie the one with even low bits (R85). -/
def q4Better (kind : Nat) (neg : Bool) (m : Nat) (e : Int) (a b : Nat) : Nat :=
  let da := q4Dist neg m e (q4Quarters kind a)
  let db := q4Dist neg m e (q4Quarters kind b)
  if da < db then a else if db < da then b
  else if (if kind = 0 then a % 16 else a % 8) % 2 = 0 then a else b

/-- The code of a kind for y = ± m × 2^e (R85): zero is always code 0. -/
def q4Code (kind : Nat) (neg : Bool) (m : Nat) (e : Int) : Nat :=
  let c := (List.range 15).foldl (fun a b => q4Better kind neg m e a (b + 1)) 0
  if q4Quarters kind c = 0 then 0 else c

/-- The larger of two magnitudes man × 2^exp. -/
def maxMag (x y : Nat × Int) : Nat × Int :=
  let e := min x.2 y.2
  if x.1 * 2 ^ (x.2 - e).toNat < y.1 * 2 ^ (y.2 - e).toNat then y else x

/-- Quantisation of 32 values to a q4 block (R85): codes and scale byte, with the conditions of R122; a block made NaN decodes
every finite input of it to another value. -/
def q4Quant (kind : Nat) (xs : List Fv) : List Nat × Nat × Cond :=
  if xs.any fun x => x.isNan || x.isInf then
    (xs.map fun _ => 0, kind * 64 + 63, { Cond.invalid with nx := xs.any fun x => !(x.isNan || x.isInf) })
  else
    let mags := xs.map fun x => match x with | .fin _ m e => (m, e) | _ => (0, 0)
    let a := mags.foldl maxMag (0, 0)
    let n := if a.1 = 0 then 32 else 32 + ceilLog2 a.1 a.2 (q4Max kind)
    let e : Nat := if n < 0 then 0 else if 62 < n then 62 else n.toNat
    let sb := kind * 64 + e
    let cs := xs.map fun x => match x with | .fin s m x' => q4Code kind s m (x' - ((e : Int) - 32)) | _ => 0
    let eqs := (xs.zip cs).map fun p => (p.1.eq (q4Value sb p.2), (q4Value sb p.2))
    let nx := eqs.any fun p => !p.1
    let small := (xs.zip eqs).any fun p =>
      match p.1, p.2.2 with
      | .fin _ m e1, .fin _ m2 e2 => decide (62 < n) && (Fv.fin false m2 e2).lt (Fv.fin false m e1)
      | _, _ => false
    (cs, sb, { Cond.none_ with nx := nx, nv := small })

end Sys2Proof.Machine
end

