-- ==== Sys2Proof/Machine/Access.lean ====
section
/-! DEFINITION. Performing accesses: loads and atomics as long-latency producers (R62-R65, R161-R166, R171-R173), stores by
every route (R144, R148, R150, R350, R358), SC windows (R193). -/

namespace Sys2Proof.Machine

/-- A core's L1 holds the units of n bytes at a place (R149). -/
def State.l1Has (s : State) (core n : Nat) (pl : Place) : Bool :=
  match pl with
  | .mem k => if isDevKey k then (s.unitsOf k n).all fun u => s.l1Get core u != .i else isHostKey k && s.l1Get core (hostUnit k) != .i
  | _ => false
/-- An L1 data miss of context c of core k (R372, log 107). -/
def State.missed (s : State) (k c : Nat) : State := s.count k 6 (some c) 1
/-- A store of the current thread at a place. -/
def State.storeCur (s : State) (pl : Place) (bs : List Byte) : State :=
  let s := if s.l1Has s.cur.1 bs.length pl then s else s.missed s.cur.1 s.cur.2
  s.storeAt s.me.part s.me.vf (some s.cur.1) s.cur pl bs false

/-- SC operations (R193): the stamp (w, n, q) of the current core's next SC operation. -/
def State.scN (s : State) : Nat :=
  let p := s.part s.me.part
  if isDeep s.cur.1 then 24 * p.n + p.rank (coreBulk s.cur.1) else p.flatCore s.cur.1
def State.scStamp (s : State) : State :=
  let w := s.tsOf s.me.part / 32
  let x := s.core s.cur.1
  let q := if x.scWin = w then x.scCount else 0
  let n := s.scN
  let s := s.modCore s.cur.1 fun y => { y with scWin := w, scCount := q + 1 }
  s.waitFor (.scWindow w n q)
/-- An SC operation waits for its window, then goes on (R193); performance event 8 if it retires. -/
def State.scGate (s : State) (o : Order) (f : State → State) : State :=
  if o = .sc then
    if s.cc.scOpen then
      let t := f s
      if (t.ctx s.cur.1 s.cur.2).retired = s.cc.retired + 1 then t.count s.cur.1 8 (some s.cur.2) 1 else t
    else s.scStamp
  else f s

/-- A release waits until the writes before it are performed at its scope (R187, R191, R350, R358). -/
def State.relHeld (s : State) (o : Order) (c : Scope) : Bool := (o == .rel || o == .sc) && s.writesOut s.me.part c
/-- A store or atomic with an order: it waits to be a release, and for its SC window. -/
def State.relGate (s : State) (o : Order) (c : Scope) (f : State → State) : State :=
  if s.relHeld o c then s else s.scGate o f

/-- What performing a producer gives. -/
inductive Perf
  | g (w : Word) (hit : Bool)
  | v (l : List Vec) (hit : Bool)
  | fault (code : Nat) (addr detail : Word)
  | held (page : Bool) (addr : Word)
  /-- its answers come over links: the places to ask for, one per line, whether it is an atomic, whether it asks for ownership,
  and its elements -/
  | link (pls : List Place) (atomic own : Bool) (els : List LinkElem)
  deriving DecidableEq, Repr

/-- DETAIL of a fault at element j: j for the codes of R166, else what R321 gives. -/
def elemDetail (code j : Nat) (d : Word) : Word :=
  if code = 0x0a ∨ code = 0x10 ∨ code = 0x16 ∨ code = 0x61 then BitVec.ofNat 64 j else d

/-- The places of several elements, in ascending order, up to the first that fails or is held (R166). -/
def State.places (s : State) (g : Agent) (a : Acc) : List Word → Nat → List Place × Option (Nat × Word × Ares) × State
  | [], _ => ([], none, s)
  | va :: l, j =>
    match s.access g a va with
    | (.ok p, s) =>
      let (ps, r, s) := s.places g a l (j + 1)
      (p :: ps, r, s)
    | (r, s) => ([], some (j, va, r), s)

/-- A held or failed access as the outcome of a producer. -/
def Perf.ofAres (j : Nat) (va : Word) : Ares → Perf
  | .ok _ => .g 0#64 false
  | .fault c d => .fault c va (elemDetail c j d)
  | .ats => .held false va
  | .page => .held true va
  | .bi => .held false va

/-- Fills of an L1 for a load of n bytes by partition p, and whether the load hits (R63, R149, R150): an L1 holds the partition's own device
memory, and host lines over CXL.cache. -/
def State.l1Load (s : State) (p core n : Nat) (pl : Place) : Bool × State :=
  match pl with
  | .mem k =>
    if isDevKey k then
      let us := (s.unitsOf k n).filter fun u => s.l1Get core u == .i
      (us.isEmpty, us.foldl (fun s u => s.cohRead core u) s)
    else if isHostKey k then
      if s.l1Get core (hostUnit k) ≠ .i then (true, s) else (false, s.hostShare p core k)
    else (false, s)
  | _ => (false, s)

/-- L1 fills for several elements. -/
def State.l1Loads (s : State) (p core n : Nat) : List Place → Bool × State
  | [] => (true, s)
  | pl :: l =>
    let (h, s) := s.l1Load p core n pl
    let (h', s) := s.l1Loads p core n l
    (h && h', s)

/-- Elements of n bytes of a vector register read at their places. -/
def State.readElems (s : State) (p n : Nat) (ps : List Place) : Vec :=
  pack (8 * n) (ps.map fun pl => leNat (s.readPlace p pl n))

/-- The places of some that must be asked for over a link, the first of each line. -/
def State.linkLines (s : State) (p : Nat) : List Place → List Nat → List Place
  | [], _ => []
  | pl :: l, seen =>
    let line := s.linkKey p pl / 64
    if s.onDevice p pl || seen.contains line then s.linkLines p l seen else pl :: s.linkLines p l (line :: seen)
/-- An element of n bytes at a place: read on the device as it issues, or awaited in its line's answer (R189). -/
def State.linkElem (s : State) (p n : Nat) (pl : Place) : LinkElem :=
  if s.onDevice p pl then .here (s.readPlace p pl n) (s.placePoison pl n) else .far (s.linkKey p pl)

/-- A vector access's reads (R166): elements of n bytes, or 64-byte blocks one per register. Each element is checked in turn, its
data's poison last: the lowest element that fails gives the fault. -/
def State.performV (s : State) (g : Agent) (core n : Nat) (addrs : List Word) : Perf × State :=
  let (ps, r, s) := s.places g (if n = 64 then Acc.vload 64 else Acc.vload n) addrs 0
  let bad := ps.findIdx? fun pl => s.placePoison pl n
  let far := ps.findIdx? fun pl => !s.onDevice g.part pl
  let link : Perf := .link (s.linkLines g.part ps []) false false (ps.map (s.linkElem g.part n))
  let waits : Option Perf := match r with
    | some (_, _, .fault _ _) => none
    | some (j, va, r) => some (Perf.ofAres j va r)
    | none => none
  match bad, far, waits, r with
  | some j, none, _, _ => (.fault 0x61 (addrs.getD j 0#64) (BitVec.ofNat 64 j), s)
  | some j, some i, none, _ =>
    if j < i then (.fault 0x61 (addrs.getD j 0#64) (BitVec.ofNat 64 j), s)
    else (link, s)
  | some j, some i, some w, _ => if j < i then (.fault 0x61 (addrs.getD j 0#64) (BitVec.ofNat 64 j), s) else (w, s)
  | none, _, some w, _ => (w, s)
  | none, some _, none, _ => (link, s)
  | none, none, none, some (j, va, r) => (Perf.ofAres j va r, s)
  | none, none, none, none =>
    let (hit, s) := s.l1Loads g.part core n ps
    if n = 64 then (.v (ps.map fun pl => BitVec.ofNat 512 (leNat (s.readPlace g.part pl 64))) hit, s)
    else (.v [s.readElems g.part n ps] hit, s)

/-- The result of an AMO (R171). -/
def amoNew (op : AmoOp) (n : Nat) (old y : Nat) : Nat :=
  let b := 8 * n
  match op with
  | .add => (old + y) % 2 ^ b
  | .and => old &&& y
  | .or => old ||| y
  | .xor => old ^^^ y
  | .min => if signed b old ≤ signed b y then old else y
  | .max => if signed b y ≤ signed b old then old else y
  | .minu => if old ≤ y then old else y
  | .maxu => if y ≤ old then old else y
  | .swap => y
  | .fadd => let f := if n = 8 then fp64 else fp32; (f.op2 .rne (Fv.add .rne) old y).1

/-- Bytes of an element of a producer's access, the address of element j, and an atomic's new value from the old (R171, R172). -/
def ProdOp.width : ProdOp → Nat
  | .load _ n _ => n
  | .vload _ n => n
  | .vblocks _ _ => 64
  | .amo _ dbl _ _ => if dbl then 8 else 4
  | .cas dbl _ _ _ => if dbl then 8 else 4
  | .done_ => 0
def ProdOp.addr (j : Nat) : ProdOp → Word
  | .load va _ _ => va
  | .vload l _ => l.getD j 0#64
  | .vblocks va _ => va + BitVec.ofNat 64 (64 * j)
  | .amo _ _ va _ => va
  | .cas _ va _ _ => va
  | .done_ => 0#64
def ProdOp.update (op : ProdOp) (old : Nat) : Nat :=
  let b := 2 ^ (8 * op.width)
  match op with
  | .amo o _ _ y => amoNew o op.width old (y.toNat % b)
  | .cas _ _ e y => if old = e.toNat % b then y.toNat % b else old
  | _ => old
/-- What its elements' bytes give a producer that reads (R161-R165). -/
def ProdOp.value (op : ProdOp) (bs : List (List Byte)) : ProdState :=
  match op with
  | .load _ n sext => let x := leNat (bs.headD []); .valueG (if sext then sextBytes n x else BitVec.ofNat 64 x)
  | .vload _ n => .valueV [pack (8 * n) (bs.map leNat)]
  | _ => .valueV (bs.map fun b => BitVec.ofNat 512 (leNat b))

/-- The route of an atomic on host memory (R173): false AtomicOp, true CXL.cache. -/
def cxlRoute (hr : Bool) (op : ProdOp) : Bool :=
  hr || match op with
    | .amo .add _ _ _ => false
    | .amo .swap _ _ _ => false
    | .cas _ _ _ _ => false
    | _ => true

/-- An atomic of n bytes at an address (R171-R173). Over a link it is a request: a remote AMO, an AtomicOp, or, on the CXL.cache
route, for the ownership of a line that the proxy home does not own; a link without CXL.cache refuses the last. -/
def State.performA (s : State) (g : Agent) (hr : Bool) (op : ProdOp) : Perf × State :=
  let n := op.width
  let va := op.addr 0
  match s.access g (Acc.atomic n) va with
  | (.ok pl, s) =>
    let host := match pl with | .mem k => isHostKey k | _ => false
    let own := host && cxlRoute hr op
    let here := !pl.linked || (own && s.hostOwned g.part (s.linkKey g.part pl))
    if own && (s.portOf g.part).isSome && !s.cxl g.part then (.fault 0x35 va 0#64, s)
    else if !here then (.link [pl] true own [.far (s.linkKey g.part pl)], s)
    else if s.placePoison pl n then (.fault 0x61 va 0#64, s)
    else
      let (old, s) := s.atomicAt g.part g.vf pl n op.update
      (.g (BitVec.ofNat 64 old) false, s)
  | (r, s) => (Perf.ofAres 0 va r, s)

/-- A producer performed for context c of core k: when it issues, and again when a page request is answered. -/
def State.perform (s : State) (k c : Nat) (pc : Word) (op : ProdOp) : Perf × State :=
  let g := { s.agentAt k c with holder := .prod k c pc }
  match op with
  | .load va n sext =>
    match s.access g (Acc.load n) va with
    | (.ok pl, s) =>
      if s.onDevice g.part pl = false then (.link [pl] false false [.far (s.linkKey g.part pl)], s)
      else if s.placePoison pl n then (.fault 0x61 va 0#64, s)
      else
        let (hit, s) := s.l1Load g.part k n pl
        let x := leNat (s.readPlace g.part pl n)
        (.g (if sext then sextBytes n x else BitVec.ofNat 64 x) hit, s)
    | (r, s) => (Perf.ofAres 0 va r, s)
  | .vload addrs n => s.performV g k n addrs
  | .vblocks _ count => s.performV g k 64 ((List.range count).map fun j => op.addr j)
  | .amo _ _ _ _ => s.performA g ((s.ctx k c).regs.env.getLsbD 8) op
  | .cas _ _ _ _ => s.performA g ((s.ctx k c).regs.env.getLsbD 8) op
  | .done_ => (.g 0#64 false, s)

/-- Registers written by a producer's value (R63). -/
def Ctx.deliver (c : Ctx) (d : Dest) (st : ProdState) : Ctx :=
  match d, st with
  | .g n, .valueG w => c.modRegs fun r => r.setG n w
  | .v n k, .valueV vs => c.modRegs fun r => (List.range k).foldl (fun r j => r.setV (n + j) (vs.getD j 0#512)) r
  | _, _ => c

/-- A producer in flight for the current context: its destination is empty until the value arrives (R63); a destination
g31 keeps the context out of the rotation (R62). The instruction retires. -/
def State.launchProd (s : State) (d : Dest) (op : ProdOp) (st : ProdState) (len : Nat) : State :=
  let x := s.cc
  let p : Producer := { pc := x.stopPc, seq := x.retired + 1, dest := d, op := op, st := st, post := x.onceQ, sc := x.scAt }
  let s := s.modCur fun c => { c.mark true d with inflight := c.inflight ++ [p] }
  let s := s.adv len
  if d = .g 31 then s.waitFor .g31 else s

/-- The requests of a producer over links: one for each place (R350, R358); their numbers. -/
def State.askLinks (s : State) (k c : Nat) (pc : Word) (atomic own : Bool) : List Place → List Nat × State
  | [] => ([], s)
  | pl :: l =>
    let r := s.recOf (s.ctx k c).tid
    let o := { s.newOp r.part r.vf pl false k c pc [] with atomic := atomic, own := own }
    let (ids, s) := (s.addOp pl o).askLinks k c pc atomic own l
    (o.id :: ids, s)

/-- The page of a held access whose page request is outstanding. -/
def heldPage (page : Bool) (addr : Word) : Option Nat := if page then some (addr.toNat / 65536) else none

/-- A producer issues (R63): a hit writes its destination before the next slot; a miss marks it empty. -/
def State.produce (s : State) (d : Dest) (op : ProdOp) (len : Nat) : State :=
  let x := s.cc
  match s.perform s.cur.1 s.cur.2 x.stopPc op with
  | (.g w true, s) => ((s.setG (match d with | .g n => BitVec.ofNat 5 n | .v _ _ => 0#5) w)).adv len
  | (.v vs true, s) => (s.modCur fun c => c.deliver d (.valueV vs)).adv len
  | (.g w false, s) => (s.missed s.cur.1 s.cur.2).launchProd d op (.valueG w) len
  | (.v vs false, s) => (s.missed s.cur.1 s.cur.2).launchProd d op (.valueV vs) len
  | (.fault code a det, s) => s.fault code a det
  | (.held page a, s) =>
    let s := if page then s.pageNotice (coreBulk s.cur.1) s.tid (s.coreField s.me.part s.cur.1) x.stopPc a else s
    s.launchProd d op (.held (heldPage page a)) len
  | (.link pls atomic own els, s) =>
    let (ids, s) := (s.missed s.cur.1 s.cur.2).askLinks s.cur.1 s.cur.2 x.stopPc atomic own pls
    s.launchProd d op (.link ids [] els) len

/-- A producer whose value has not been fixed: held or waiting for a link. -/
def Producer.unfixed (p : Producer) : Bool :=
  match p.st with
  | .held _ => true
  | .link _ _ _ => true
  | _ => false

/-- Every context of some bulkheads that a translation, a back-invalidation or a grain change holds tries again (R160). -/
def Ctx.unhold (c : Ctx) : Ctx := if c.wait = .xlat then { c with wait := .none_ } else c
def State.unhold (s : State) (bs : List Nat) : State :=
  { s with cores := s.cores.map fun c =>
      if bs.contains (c.1 / 32) then (c.1, { c.2 with ctxs := c.2.ctxs.map fun x => (x.1, x.2.unhold) }) else c }

end Sys2Proof.Machine
end

