-- ==== Sys2Proof/Machine/Issue.lean ====
section
/-! DEFINITION. Instruction fetch from registered code ranges (R38, R51, R337), and when a context is ready (R254). -/

namespace Sys2Proof.Machine

/-- The registered range that holds an address under a PASID (R337). -/
def Part.rangeOf (p : Part) (pasid a : Nat) : Option CodeRange :=
  p.ranges.find? fun r => r.pasid == pasid && decide (r.base ≤ a) && decide (a < r.base + r.len)

/-- The memory key of the parcel at an address of a range: the pages recorded when it was scanned (R337). -/
def CodeRange.key (r : CodeRange) (a : Nat) : Nat := r.pages.getD ((a - r.base) / 65536) 0 * 65536 + a % 65536
/-- The memory key of the bitmap byte of parcel i. -/
def CodeRange.bmKey (r : CodeRange) (i : Nat) : Nat :=
  r.bmPages.getD ((r.bitmap % 65536 + i / 8) / 65536) 0 * 65536 + (r.bitmap + i / 8) % 65536
/-- A parcel is marked in the pool bitmap (R51). -/
def CodeRange.marked (r : CodeRange) (m : Mem) (a : Nat) : Bool :=
  let i := (a - r.base) / 2
  (m.byte (r.bmKey i)).getLsbD (i % 8)

/-- What a fetch gives: an instruction and its bytes, a fetch fault (R38), or bytes that are no instruction. -/
inductive Fetched
  | instr (i : Instr) (n : Nat)
  | fault (code : Nat)
  | bad
  deriving DecidableEq, Repr

/-- The bytes of a range from an address: four, or the two before its end. -/
def CodeRange.bytes (r : CodeRange) (m : Mem) (a : Nat) : List Byte :=
  m.bytes (r.key a) 2 ++ if a + 2 < r.base + r.len then m.bytes (r.key (a + 2)) 2 else []

/-- The instruction at an address for a thread (R38): the address must lie in a range registered under its VF's PASID. -/
def State.fetchAt (s : State) (t : W32) (pc : Word) : Fetched :=
  let r := s.recOf t
  match (s.part r.part).rangeOf (s.pasid r.part r.vf) pc.toNat with
  | none => .fault 0x04
  | some g =>
    if g.marked s.mem pc.toNat then .fault 0x05
    else match decode (g.bytes s.mem pc.toNat) with
      | .ok (i, n) => .instr i n
      | .error _ => .bad

/-- The instruction at the PC of a context. -/
def State.fetch (s : State) (k c : Nat) : Fetched := s.fetchAt (s.ctx k c).tid (s.ctx k c).pc

end Sys2Proof.Machine
end

