-- ==== Sys2Proof/Machine/Producers.lean ====
section
/-! DEFINITION. ONCE (R115-R119) and the arrival of long-latency results and faults (R62-R65, R318). -/

namespace Sys2Proof.Machine

/-- The instruction a ONCE at the current PC prefixes: its destination and its size (R48). -/
def State.onceFollower (s : State) (k c : Nat) : Nat × Nat :=
  let x := s.ctx k c
  match s.fetchAt x.tid (x.pc + 2#64) with
  | .instr i n => ((gUses i).headD 0, n)
  | _ => (0, 2)

/-- Counts q − 4 to q − 1 modulo 256 (R117). -/
def stalePost (q x : Byte) : Bool := let d := (q - x).toNat; decide (1 ≤ d) && decide (d ≤ 4)

/-- A context uses the post with its count: the value goes to its destination and the pair retires (R116, R117). Of several posts
with one count it uses the oldest held; those equal to it in all go with it, another stays (log 87). -/
def Ctx.takePost (d n : Nat) (p : Post) (c : Ctx) : Ctx :=
  let c := c.modRegs fun r => r.setG d (p.value.setWidth 64)
  let same (x : Post) : Bool := x.reg == p.reg && x.vec == p.vec && x.value == p.value && x.q == p.q
  let c := { c with posts := c.posts.filter fun x => !same x && !stalePost p.q x.q }
  c.retire (c.pc + BitVec.ofNat 64 (2 + n))

/-- A post with the count of its pair is held for a context (R116). -/
def Ctx.holdsPost (x : Ctx) : Bool := x.posts.any fun p => p.q == x.regs.q
/-- A waiting context takes its post if one with its count is held and its destination is full (R116). -/
def State.tryPost (s : State) (k c : Nat) : State :=
  let x := s.ctx k c
  let (d, n) := s.onceFollower k c
  match x.posts.find? fun p => p.q == x.regs.q with
  | some p => if x.wait = .oncePost ∧ x.gFull d = true then s.modCtx k c (Ctx.takePost d n p) else s
  | none => s

/-- ONCE (R115-R119): the pair's count, the election, execution or the wait for a post. A context that holds its post and waits only
for its destination is not elected again (R118). -/
def execOnce (s : State) : Out :=
  let (k, c) := s.cur
  if isDeep k then .next (s.fault 0x06 0#64 0#64)
  else
    let s := if s.cc.wait = .oncePost then s else s.modCur fun x => x.modRegs fun r => { r with q := r.q + 1#8 }
    let (d, n) := s.onceFollower k c
    if s.onceElected k c = k ∧ ¬(s.cc.wait = .oncePost ∧ s.cc.holdsPost = true) then
      .next (s.modCur fun x => { x with wait := .none_, onceQ := some x.regs.q, pc := x.pc + 2#64 })
    else if d = 0 then .next (s.adv (2 + n))
    else .next ((s.waitFor .oncePost).tryPost k c)

/-- The list without its first entry equal to x. -/
def eraseOne {α : Type} [DecidableEq α] (x : α) : List α → List α
  | [] => []
  | y :: l => if y = x then l else y :: eraseOne x l

/-- The post is the one that a context waits for, which needs no place (R116). -/
def Ctx.awaits (x : Ctx) (p : Post) : Bool := x.wait == .oncePost && p.q == x.regs.q
/-- A context can take a post: it waits for it, or one of its four places is free (R117). -/
def Ctx.takesPost (x : Ctx) (p : Post) : Bool :=
  !x.bound || x.awaits p || decide ((x.posts.filter fun y => !x.awaits y).length < 4)
/-- The oldest post in flight for a context that it can take (R116, R117): one that finds the places full holds up its sender, and no
post behind it. -/
def nextPost (l : List (Nat × Nat × Post)) (x : Ctx) (k c : Nat) : Option (Nat × Nat × Post) :=
  l.find? fun e => e.1 == k && e.2.1 == c && x.takesPost e.2.2
/-- ONCE_POST (R116, R117): a post arrives: it is held in one of four places, and used at once by a context that waits for
its count. Posts for a context that runs no thread are discarded. -/
def execOncePost (core ctx : Nat) (s : State) : Out :=
  let u := coreUnit core
  let x := s.ctx core ctx
  match nextPost (s.unit u).posts x core ctx with
  | none => .next s
  | some e =>
    if s.atSwitch (s.recOf x.tid).part (s.recOf x.tid).vf = true then .next s
    else
      let s := s.modUnit u fun y => { y with posts := eraseOne e y.posts }
      if x.bound then .next ((s.modCtx core ctx fun y => { y with posts := y.posts ++ [e.2.2] }).tryPost core ctx)
      else .next s

/-- A post of a context has found its receiver's places full (R117): the context is not ready until one frees. -/
def State.postHeld (s : State) (k c : Nat) : Bool :=
  (s.unit (coreUnit k)).posts.any fun e => e.2.2.src == some (k, c) && !(s.ctx e.1 e.2.1).takesPost e.2.2

/-- The n-th producer of a context. -/
def Ctx.prod (c : Ctx) (n : Nat) : Option Producer := c.inflight[n]?
/-- Without the n-th. -/
def Ctx.dropProd (c : Ctx) (n : Nat) : Ctx := { c with inflight := c.inflight.eraseIdx n }
/-- With the n-th in another state. -/
def Ctx.setProd (c : Ctx) (n : Nat) (st : ProdState) : Ctx :=
  { c with inflight := c.inflight.modify n fun p => { p with st := st } }

/-- The n-th producer ends in a context with its value written and its register full (R63); a wait for g31 is over (R62). -/
def Ctx.arrived (n : Nat) (p : Producer) (x : Ctx) : Ctx :=
  let x := ((x.deliver p.dest p.st).mark false p.dest).dropProd n
  if p.dest = .g 31 ∧ x.wait = .g31 then { x with wait := .none_ } else x
/-- The value of the n-th producer arrives (R63), and its post is sent (R116). -/
def State.arrive (s : State) (k c n : Nat) (p : Producer) : State :=
  let s := s.modCtx k c fun x => x.arrived n p
  match p.post, p.dest, p.st with
  | some q, .g d, .valueG w => (s.post k c d w q).tryPost k c
  | _, _, _ => s.tryPost k c

/-- A producer performed again after its page request or link answer (R160): its new state. -/
def perfState : Perf → Option ProdState
  | .g w _ => some (.valueG w)
  | .v vs _ => some (.valueV vs)
  | .fault c a d => some (.fault c a d)
  | .held page a => some (.held (heldPage page a))
  | .link _ _ _ _ => none

/-- A held producer whose access is to be repeated under another page request writes its PAGE_WAIT notice (R330). -/
def State.heldNotice (s : State) (k c : Nat) (p : Producer) (r : Perf) (st : ProdState) : State :=
  match r with
  | .held true a =>
    let t := (s.ctx k c).tid
    if p.st = st then s else s.pageNotice (coreBulk k) t (s.coreField (s.recOf t).part k) p.pc a
  | _ => s

/-- One that is performed without its L1 has missed (R372). -/
def State.retryMissed (s : State) (k c : Nat) : Perf → State
  | .g _ false => s.missed k c
  | .v _ false => s.missed k c
  | _ => s
/-- A held producer tries again (R160). -/
def State.retryProd (s : State) (k c n : Nat) (p : Producer) : State :=
  match s.perform k c p.pc p.op with
  | (.link pls atomic own els, s) =>
    let (ids, s) := (s.missed k c).askLinks k c p.pc atomic own pls
    s.modCtx k c fun x => x.setProd n (.link ids [] els)
  | (r, s) =>
    match perfState r with
    | some st => ((s.heldNotice k c p r st).retryMissed k c r).modCtx k c fun x => x.setProd n st
    | none => s

/-- The n-th producer has faulted (R65, R318): its destination is full with its previous contents, and the thread stops on
the oldest faulting producer, with LATE set when younger instructions have retired. -/
def State.prodFault (s : State) (k c n : Nat) (p : Producer) (code : Nat) (addr detail : Word) : State :=
  let x := s.ctx k c
  let late := decide (p.seq < x.retired)
  let s := s.modCtx k c fun x =>
    let x := (x.mark false p.dest).dropProd n
    if p.dest = .g 31 ∧ x.wait = .g31 then { x with wait := .none_ } else x
  let new : Stop := { code := some code, pc := p.pc, resume := p.pc, addr := addr, detail := detail, late := late,
                      seq := p.seq, rseq := p.seq, callers := [] }
  match x.stop with
  | none => s.beginStop k c new
  | some st =>
    let st' := if st.code = none ∨ p.seq < st.seq then
        if p.seq < st.rseq then { new with callers := st.callers }
        else { new with resume := st.resume, rseq := st.rseq, callers := st.callers }
      else st
    s.modCtx k c fun x => { x with stop := some st' }

/-- A producer whose value a saved context takes (R287). -/
def Producer.deliverable (p : Producer) : Bool :=
  match p.st with
  | .valueG _ => true
  | .valueV _ => true
  | _ => false
/-- The posts that a result of a saved context sends to its group, which is saved with it (R116, R287). -/
def State.savedPosts (s : State) (v : SavedVf) (k c : Nat) (x : Ctx) (p : Producer) : List (Nat × Nat × Nat × Post) :=
  match p.post, p.dest, p.st with
  | some q, .g d, .valueG w =>
    if d = 0 then []
    else
      let me := s.recOf x.tid
      let mate (y : Nat × Nat × Ctx) : Bool :=
        let r := s.recOf y.2.2.tid
        coreUnit y.1 == coreUnit k && !(y.1 == k && y.2.1 == c) && r.launchId == me.launchId && r.coord == me.coord
      (v.ctxs.filter mate).map fun y =>
        (coreUnit k, y.1, y.2.1, { reg := d, vec := false, value := w.setWidth 512, q := q, src := some (k, c) })
  | _, _, _ => []
/-- The first value that has come back for the saved image of context c of core k is written into it, with its full bit, and
its post is sent (R287). -/
def State.arriveSaved (s : State) (k c : Nat) (v : SavedVf) : SavedVf :=
  match v.ctxs.find? fun x => x.1 == k && x.2.1 == c with
  | none => v
  | some (_, _, x) =>
    match x.inflight.findIdx? Producer.deliverable with
    | none => v
    | some n => match x.prod n with
      | none => v
      | some p =>
        { v with
          ctxs := v.ctxs.map fun y => if y.1 = k ∧ y.2.1 = c then (k, c, y.2.2.arrived n p) else y
          posts := v.posts ++ s.savedPosts v k c x p }
/-- The saved image of a context of a switched-out VF changed. -/
def State.modSaved (s : State) (k c : Nat) (f : Ctx → Ctx) : State :=
  { s with parts := s.parts.map fun p => (p.1, { p.2 with savedVfs := p.2.savedVfs.map fun v =>
      { v with ctxs := v.ctxs.map fun x => if x.1 = k ∧ x.2.1 = c then (k, c, f x.2.2) else x } }) }
/-- The first value that has come back for a saved context is written into it; a TSTOP that waits for it goes on (R287, R292). -/
def State.savedResult (s : State) (k c : Nat) : State :=
  { s with parts := s.parts.map fun (p : Nat × Part) => (p.1, { p.2 with savedVfs := p.2.savedVfs.map (s.arriveSaved k c) }) }.unhold (List.range 48)

/-- LONG_LATENCY_RESULT (R63, R65, R160): the n-th producer of the context, or, when the context has no such producer, the
oldest of its saved image. The result of a TREAD or a RECV comes once its block is written at part scope (R274, R310). -/
def execLongLatencyResult (core ctx n : Nat) (s : State) : Out :=
  let x := s.ctx core ctx
  match x.prod n with
  | none => .next (s.savedResult core ctx)
  | some p =>
    match p.st with
    | .valueG _ =>
      if p.op == .done_ && s.writesOut (s.recOf x.tid).part .part then .next s else .next (s.arrive core ctx n p)
    | .valueV _ => .next (s.arrive core ctx n p)
    | .held _ => .next (s.retryProd core ctx n p)
    | .link _ _ _ => .next s
    | .fault code a d => if p.seq < x.retired then .next s else .next (s.prodFault core ctx n p code a d)

/-- LATE_FAULT (R318). -/
def execLateFault (core ctx n : Nat) (s : State) : Out :=
  let x := s.ctx core ctx
  match x.prod n with
  | none => .next s
  | some p =>
    match p.st with
    | .fault code a d => if p.seq < x.retired then .next (s.prodFault core ctx n p code a d) else .next s
    | _ => .next s

/-- STOP_COMPLETE (R65, R17): a stop whose producers have all written, faulted or been abandoned takes effect. -/
def execStopComplete (core ctx : Nat) (s : State) : Out :=
  if (s.ctx core ctx).stop.isSome then .next (s.stopDone core ctx) else .next s

end Sys2Proof.Machine
end

