-- ==== Sys2Proof/Machine/MemoryInstr.lean ====
section
/-! DEFINITION. Loads and stores, scalar, vector and full/empty (R159-R170), their parcels, fences, hints, env (R174-R178),
and the events of parking and of SC windows (R169, R193). -/

namespace Sys2Proof.Machine

/-- LD (R161): zero-extended. With order sc it is a release too (R193). -/
def execLd (z : Size) (o : Order) (c : Scope) (d a : GReg) (off : BitVec 8) (s : State) : Out :=
  let n := sizeBytes z
  .next (s.relGate o c fun s => s.produce (.g d.toNat) (.load (effAddr (s.g a) off n) n false) 4)
/-- LDS (R161): sign-extended. -/
def execLds (z : Size) (o : Order) (c : Scope) (d a : GReg) (off : BitVec 8) (s : State) : Out :=
  let n := sizeBytes z
  .next (s.relGate o c fun s => s.produce (.g d.toNat) (.load (effAddr (s.g a) off n) n true) 4)
/-- LDD.S: LD.d gD, [gZ+0] (R46). -/
def execLddS (d b : GReg) (s : State) : Out := .next (s.produce (.g d.toNat) (.load (s.g b) 8 false) 2)

/-- The grain of a page as the earlier stores to the map leave it: that of its last change under way, else slice 0's copy (R148). -/
def State.grainNow (s : State) (b pg : Nat) : BitVec 2 :=
  match (s.bulk b).grainReqs.reverse.find? fun r => r.page == pg with
  | some r => r.grain
  | none => fget 0#2 (s.bulk b).grain (8 * pg)
/-- A store to the grain map (R148): each page whose field it alters is changed slice by slice; a field of 3 changes
nothing. The store is performed when every slice has switched. -/
def State.grainStore (s : State) (off : Nat) (bs : List Byte) (len : Nat) : State :=
  let p := s.me.part
  let news := (List.range bs.length).flatMap fun i =>
    let new := bs.getD i 0#8
    let b := (s.part p).bulkOf ((off + i) / 65536)
    (List.range 4).filterMap fun j =>
      let pg := (off + i) % 65536 * 4 + j
      let g : BitVec 2 := BitVec.ofNat 2 (bitsOf new (2 * j) 2)
      if g = 3#2 ∨ g = s.grainNow b pg then none
      else some (b, ({ page := pg, grain := g, done := 0#8, core := s.cur.1, ctx := s.cur.2 } : GrainReq))
  if news.isEmpty then s.adv len
  else (news.foldl (fun s x => s.modBulk x.1 fun b => { b with grainReqs := b.grainReqs ++ [x.2] }) s).waitFor .grain

/-- A store of n bytes at an address by the current thread (R160, R161). -/
def State.store (s : State) (va : Word) (bs : List Byte) (len : Nat) : State :=
  s.threadAccess (Acc.store bs.length) va fun pl s =>
    match pl with
    | .grain off => s.grainStore off bs len
    | _ => (s.storeCur pl bs).adv len

/-- ST (R161). -/
def execSt (z : Size) (o : Order) (c : Scope) (d a : GReg) (off : BitVec 8) (s : State) : Out :=
  let n := sizeBytes z
  .next (s.relGate o c fun s => s.store (effAddr (s.g a) off n) (leBytes n (s.g d).toNat) 4)
/-- STD.S: ST.d gD, [gZ+0] (R46). -/
def execStdS (d b : GReg) (s : State) : Out := .next (s.store (s.g b) (leBytes 8 (s.g d).toNat) 2)

/-- VLD (R162). -/
def execVld (o : Order) (c : Scope) (d : VReg) (a : GReg) (off : BitVec 8) (s : State) : Out :=
  if isDeep s.cur.1 then .next (s.fault 0x06 0#64 0#64)
  else .next (s.relGate o c fun s => s.produce (.v d.toNat 1) (.vblocks (effAddr (s.g a) off 64) 1) 4)

/-- Stores of a vector instruction (R166): nothing while an element is held; elements before a failing one are written. -/
def State.storeElems (s : State) (n : Nat) (es : List (Word × List Byte)) : State :=
  match s.places s.ag (Acc.vstore n) (es.map fun e => e.1) 0 with
  | (_, some (_, va, .page), s) => s.hold true va
  | (_, some (_, va, .ats), s) => s.hold false va
  | (_, some (_, va, .bi), s) => s.hold false va
  | (ps, r, s) =>
    let s := (ps.zip es).foldl (fun s x => s.storeCur x.1 x.2.2) s
    match r with
    | some (j, va, .fault c d) => s.fault c va (elemDetail c j d)
    | _ => s.done

/-- VST (R162). -/
def execVst (o : Order) (c : Scope) (d : VReg) (a : GReg) (off : BitVec 8) (s : State) : Out :=
  if isDeep s.cur.1 then .next (s.fault 0x06 0#64 0#64)
  else .next (s.relGate o c fun s => s.storeElems 64 [(effAddr (s.g a) off 64, leBytes 64 (s.v d).toNat)])

/-- Addresses of a strided access and of an indexed one (R163, R164). -/
def strideAddrs (n : Nat) (base stride : Word) : List Word :=
  (List.range (64 / n)).map fun i => base + BitVec.ofNat 64 i * stride
def indexAddrs (n : Nat) (base : Word) (ix : Vec) : List Word :=
  (List.range (64 / n)).map fun i => base + sextBytes n (elem (8 * n) ix i)
/-- The elements of v(d) with their addresses. -/
def elemBytes (n : Nat) (x : Vec) (addrs : List Word) : List (Word × List Byte) :=
  (List.range addrs.length).map fun i => (addrs.getD i 0#64, leBytes n (elem (8 * n) x i))

/-- VLDS (R163). -/
def execVlds (z : Size) (d : VReg) (a b : GReg) (s : State) : Out :=
  let n := sizeBytes z
  if isDeep s.cur.1 then .next (s.fault 0x06 0#64 0#64)
  else .next (s.produce (.v d.toNat 1) (.vload (strideAddrs n (s.g a) (s.g b)) n) 4)
/-- VSTS (R163): ascending, so the higher element remains. -/
def execVsts (z : Size) (d : VReg) (a b : GReg) (s : State) : Out :=
  let n := sizeBytes z
  if isDeep s.cur.1 then .next (s.fault 0x06 0#64 0#64)
  else .next (s.storeElems n (elemBytes n (s.v d) (strideAddrs n (s.g a) (s.g b))))
/-- VGATH (R164). -/
def execVgath (dbl : Bool) (d : VReg) (a : GReg) (b : VReg) (s : State) : Out :=
  let n := if dbl then 8 else 4
  if isDeep s.cur.1 then .next (s.fault 0x06 0#64 0#64)
  else .next (s.produce (.v d.toNat 1) (.vload (indexAddrs n (s.g a) (s.v b)) n) 4)
/-- VSCAT (R164). -/
def execVscat (dbl : Bool) (d : VReg) (a : GReg) (b : VReg) (s : State) : Out :=
  let n := if dbl then 8 else 4
  if isDeep s.cur.1 then .next (s.fault 0x06 0#64 0#64)
  else .next (s.storeElems n (elemBytes n (s.v d) (indexAddrs n (s.g a) (s.v b))))
/-- VSTM (R165): c + 1 registers to consecutive blocks. -/
def execVstm (n1 : BitVec 5) (d : VReg) (a : GReg) (s : State) : Out :=
  if isDeep s.cur.1 then .next (s.fault 0x06 0#64 0#64)
  else .next (s.storeElems 64 ((List.range (n1.toNat + 1)).map fun j =>
    (s.g a + BitVec.ofNat 64 (64 * j), leBytes 64 (s.cc.regs.getV (d.toNat + j)).toNat)))
/-- VLDM (R165). -/
def execVldm (n1 : BitVec 5) (d : VReg) (a : GReg) (s : State) : Out :=
  if isDeep s.cur.1 then .next (s.fault 0x06 0#64 0#64)
  else .next (s.produce (.v d.toNat (n1.toNat + 1)) (.vblocks (s.g a) (n1.toNat + 1)) 4)

/-- The four full/empty instructions (R168). -/
inductive FeOp | ldfe | ldf | stef | stf deriving DecidableEq, Repr
def FeOp.isStore : FeOp → Bool
  | .ldfe => false | .ldf => false | .stef => true | .stf => true
/-- An attempt succeeds (R168). -/
def FeOp.succeeds (op : FeOp) (full : Bool) : Bool :=
  match op with
  | .ldfe => full | .ldf => full | .stef => !full | .stf => true

/-- A successful attempt at a word (R168): the word and its bit in one step; every fe change wakes parked contexts
(R169). The instruction retires, the value of a load on its way (R63). -/
def State.feDone (s : State) (op : FeOp) (vf k : Nat) (va : Word) (d : GReg) : State :=
  let s := s.missed s.cur.1 s.cur.2
  match op with
  | .ldfe =>
    let x := s.mem.word k
    let s := if isDevKey k then s.cohRecall (s.unitOf k) else s
    ((s.modMem fun m => m.setFull k false).touchWord k).launchProd (.g d.toNat) (.load va 8 false) (.valueG x) 4
  | .ldf => s.launchProd (.g d.toNat) (.load va 8 false) (.valueG (s.mem.word k)) 4
  | _ =>
    let s := if isDevKey k then (s.recallAll k 8).tagBlock k s.me.part vf 8 else s
    ((s.modMem fun m => m.setFull k true).writeWord k (s.g d)).done

/-- One attempt of a full/empty instruction (R168): a failure changes nothing but the count of attempts, and the 64th
sends the park request (R169). With `park` this is the home's attempt, which sets the word's waiter bit first: a failure parks
the context on the word. An SC attempt is judged when it passes the port, where it is stamped, and again when its window has closed; one that
fails then drops its stamp (R193, log 110). -/
def State.feTry (s : State) (op : FeOp) (o : Order) (c : Scope) (d : GReg) (va : Word) (park : Bool) : State :=
  s.threadAccess { Acc.load 8 with write := op.isStore, fe := true } va fun pl s =>
    match s.placeKey s.me.part pl with
    | none => s.done
    | some k =>
      let s := if park then s.modMem fun m => m.setWaiter k true else s
      if s.placePoison pl 8 && !op.isStore then s.fault 0x61 va 0#64
      else if op.succeeds (s.mem.full k) then s.relGate o c fun s => s.feDone op s.me.vf k va d
      else if park then
        (s.waitFor (.parked (k / 8))).count s.cur.1 17 (some s.cur.2) 1
      else
        s.modCur fun c =>
          { c with feTries := c.feTries + 1, scOpen := false, scAt := none, wait := if c.feTries + 1 < 64 then .none_ else .parkReq }

/-- LDFE (R168). -/
def execLdfe (o : Order) (c : Scope) (d a : GReg) (off : BitVec 8) (s : State) : Out :=
  .next (s.feTry .ldfe o c d (effAddr (s.g a) off 8) false)
/-- LDF (R168). -/
def execLdf (o : Order) (c : Scope) (d a : GReg) (off : BitVec 8) (s : State) : Out :=
  .next (s.feTry .ldf o c d (effAddr (s.g a) off 8) false)
/-- STEF (R168). -/
def execStef (o : Order) (c : Scope) (d a : GReg) (off : BitVec 8) (s : State) : Out :=
  .next (s.feTry .stef o c d (effAddr (s.g a) off 8) false)
/-- STF (R168). -/
def execStf (o : Order) (c : Scope) (d a : GReg) (off : BitVec 8) (s : State) : Out :=
  .next (s.feTry .stf o c d (effAddr (s.g a) off 8) false)

/-- FE_PARK_REQUEST (R169): the home sets the waiter bit and tries again, in one step. -/
def execFeParkRequest (core ctx : Nat) (s : State) : Out :=
  if (s.ctx core ctx).wait = .parkReq then
    let s' := { s with cur := (core, ctx) }.modCtx core ctx fun c => { c with wait := .none_ }
    match s'.fetch core ctx with
    | .instr (.ldfe o c d a off) _ => .next { s'.feTry .ldfe o c d (effAddr (s'.g a) off 8) true with cur := s.cur }
    | .instr (.ldf o c d a off) _ => .next { s'.feTry .ldf o c d (effAddr (s'.g a) off 8) true with cur := s.cur }
    | .instr (.stef o c d a off) _ => .next { s'.feTry .stef o c d (effAddr (s'.g a) off 8) true with cur := s.cur }
    | .instr (.stf o c d a off) _ => .next { s'.feTry .stf o c d (effAddr (s'.g a) off 8) true with cur := s.cur }
    | _ => .next s
  else .next s

/-- WORD_WAKE (R169): contexts parked on a word return to the rotation. -/
def execWordWake (word : Nat) (s : State) : Out := .next (s.wordWake word)

/-- A fence is not complete (R176, R187): an earlier access is held or under way on a link, or, for a release at sys scope,
a write is not acknowledged. Every other access is performed in the step that issues it (log 4). -/
def State.fenceHeld (s : State) (o : Order) (c : Scope) : Bool := s.cc.inflight.any Producer.unfixed || s.relHeld o c
/-- The wider of two scopes. -/
def widerScope (a b : Scope) : Scope := if a.bits.toNat ≤ b.bits.toNat then b else a
/-- A FENCE.rel or FENCE.sc makes the first write after it a release at its scope (R191); until then an earlier one stands too. -/
def Ctx.fenced (o : Order) (c : Scope) (x : Ctx) : Ctx :=
  if o = .rel ∨ o = .sc then { x with fence := some (match x.fence with | some d => widerScope d c | none => c) } else x
/-- FENCE (R176). -/
def execFence (k : Order) (c : Scope) (s : State) : Out :=
  .next (if s.fenceHeld k c then s else (s.modCur (Ctx.fenced k c)).done)
/-- FEGET (R175). -/
def execFeget (d : GReg) (s : State) : Out := .next (s.ret d s.cc.regs.env)
/-- FESET (R175): bits [4:0] and [8] only. -/
def execFeset (a : GReg) (s : State) : Out :=
  .next ((s.modCur fun c => c.modRegs fun r => { r with env := s.g a &&& 0x11f#64 }).done)

/-- PREF (R177): a hint: the unit is filled into L1 in S or owned, or into L2 alone; never a fault, never a wait. A host line that
its proxy home does not hold is left alone. -/
def execPref (l2 own : Bool) (a : GReg) (s : State) : Out :=
  match s.access { s.ag with holder := .hint } { Acc.load 1 with write := own } (s.g a) with
  | (.ok (.mem k), s') =>
    if isDevKey k && l2 && !s.mem.poisoned k 1 then
      .next (s'.l2Fill (keyBulk k) (s'.unitOf k) (s'.unitLen (s'.unitOf k)) false).done
    else if isDevKey k && !s.mem.poisoned k 1 then
      .next ((if own then s'.cohOwn s.cur.1 (s'.unitOf k) else s'.cohRead s.cur.1 (s'.unitOf k)).done)
    else if isHostKey k && !l2 && !own && !s.mem.poisoned k 1 && s'.onDevice s.me.part (.mem k) then
      .next (s'.hostShare s.me.part s.cur.1 k).done
    else .next s.done
  | _ => .next s.done

/-- FLUSH (R178): a dirty copy goes home; with `inv` the L1 drops its copy; with `out` the home writes device memory to HBM, and a
host line leaves its proxy home. -/
def execFlush (out inv : Bool) (a : GReg) (s : State) : Out :=
  .next (s.threadAccess Acc.probe (s.g a) fun pl s =>
    match pl with
    | .mem k =>
      if isTarnKey k then s.done
      else
        let u := if isDevKey k then s.unitOf k else hostUnit k
        let s := if inv then s.l1Leave s.cur.1 u else s.l1Clean s.cur.1 u
        if out = false then s.done
        else if isHostKey k then (s.proxyLeave s.me.part k).done
        else (s.modDir (keyBulk k) (dirKey k) fun d => { d with dirty := false }).done
    | _ => s.done)

end Sys2Proof.Machine
end

