-- ==== Sys2Proof/Machine/Atomics.lean ====
section
/-! DEFINITION. Atomics (R171-R173) and the closing of SC windows (R193). -/

namespace Sys2Proof.Machine

/-- An AMO issues (R171): its home performs it as one step; the old value arrives as a long-latency result (R63). -/
def State.amo (s : State) (op : AmoOp) (dbl : Bool) (o : Order) (c : Scope) (d a b : GReg) : State :=
  s.relGate o c fun s => s.produce (.g d.toNat) (.amo op dbl (s.g a) (s.g b)) 4

/-- AMO.ADD (R171). -/
def execAmoAdd (dbl : Bool) (o : Order) (c : Scope) (d a b : GReg) (s : State) : Out := .next (s.amo .add dbl o c d a b)
/-- AMO.AND (R171). -/
def execAmoAnd (dbl : Bool) (o : Order) (c : Scope) (d a b : GReg) (s : State) : Out := .next (s.amo .and dbl o c d a b)
/-- AMO.OR (R171). -/
def execAmoOr (dbl : Bool) (o : Order) (c : Scope) (d a b : GReg) (s : State) : Out := .next (s.amo .or dbl o c d a b)
/-- AMO.XOR (R171). -/
def execAmoXor (dbl : Bool) (o : Order) (c : Scope) (d a b : GReg) (s : State) : Out := .next (s.amo .xor dbl o c d a b)
/-- AMO.MIN (R171). -/
def execAmoMin (dbl : Bool) (o : Order) (c : Scope) (d a b : GReg) (s : State) : Out := .next (s.amo .min dbl o c d a b)
/-- AMO.MAX (R171). -/
def execAmoMax (dbl : Bool) (o : Order) (c : Scope) (d a b : GReg) (s : State) : Out := .next (s.amo .max dbl o c d a b)
/-- AMO.MINU (R171). -/
def execAmoMinu (dbl : Bool) (o : Order) (c : Scope) (d a b : GReg) (s : State) : Out := .next (s.amo .minu dbl o c d a b)
/-- AMO.MAXU (R171). -/
def execAmoMaxu (dbl : Bool) (o : Order) (c : Scope) (d a b : GReg) (s : State) : Out := .next (s.amo .maxu dbl o c d a b)
/-- AMO.SWAP (R171). -/
def execAmoSwap (dbl : Bool) (o : Order) (c : Scope) (d a b : GReg) (s : State) : Out := .next (s.amo .swap dbl o c d a b)
/-- AMO.FADD (R171). -/
def execAmoFadd (dbl : Bool) (o : Order) (c : Scope) (d a b : GReg) (s : State) : Out := .next (s.amo .fadd dbl o c d a b)
/-- CAS (R172): g(d) is the expected value and takes the old one. -/
def execCas (dbl : Bool) (o : Order) (c : Scope) (d a b : GReg) (s : State) : Out :=
  .next (s.relGate o c fun s => s.produce (.g d.toNat) (.cas dbl (s.g a) (s.g d) (s.g b)) 4)

/-- The order of SC operations by their stamps: window, core number, count (R193). -/
def scBefore (a b : Nat × Nat × Nat) : Bool :=
  decide (a.1 < b.1) || (a.1 == b.1 && (decide (a.2.1 < b.2.1) || (a.2.1 == b.2.1 && decide (a.2.2 < b.2.2))))
/-- The stamps of a context's SC operations that are not performed (R193): one that waits for its window, one whose window has
closed and which is held, and those that are under way on a link. -/
def Ctx.scStamps (x : Ctx) : List (Nat × Nat × Nat) :=
  (match x.wait with
   | .scWindow w n q => [(w, n, q)]
   | _ => x.scAt.toList) ++ (x.inflight.filter Producer.unfixed).filterMap fun p => p.sc
/-- The stamps that wait in a partition's bulkheads, in its cores and in the saved images of its VFs. -/
def State.scWaiting (s : State) (bs : List Nat) : List (Nat × Nat × Nat) :=
  (s.cores.flatMap fun c => if bs.contains (c.1 / 32) then c.2.ctxs.flatMap fun x => x.2.scStamps else []) ++
  s.parts.flatMap fun p => p.2.savedVfs.flatMap fun v => v.ctxs.flatMap fun x => if bs.contains (x.1 / 32) then x.2.2.scStamps else []

/-- The SC operation at the PC is performed: its instruction goes through its gate. -/
def State.scPerform (s : State) : Out :=
  match s.fetch s.cur.1 s.cur.2 with
  | .instr (.ld z o c d a off) _ => execLd z o c d a off s
  | .instr (.lds z o c d a off) _ => execLds z o c d a off s
  | .instr (.st z o c d a off) _ => execSt z o c d a off s
  | .instr (.ldfe o c d a off) _ => execLdfe o c d a off s
  | .instr (.ldf o c d a off) _ => execLdf o c d a off s
  | .instr (.stef o c d a off) _ => execStef o c d a off s
  | .instr (.stf o c d a off) _ => execStf o c d a off s
  | .instr (.vld o c d a off) _ => execVld o c d a off s
  | .instr (.vst o c d a off) _ => execVst o c d a off s
  | .instr (.amoAdd dbl o c d a b) _ => execAmoAdd dbl o c d a b s
  | .instr (.amoAnd dbl o c d a b) _ => execAmoAnd dbl o c d a b s
  | .instr (.amoOr dbl o c d a b) _ => execAmoOr dbl o c d a b s
  | .instr (.amoXor dbl o c d a b) _ => execAmoXor dbl o c d a b s
  | .instr (.amoMin dbl o c d a b) _ => execAmoMin dbl o c d a b s
  | .instr (.amoMax dbl o c d a b) _ => execAmoMax dbl o c d a b s
  | .instr (.amoMinu dbl o c d a b) _ => execAmoMinu dbl o c d a b s
  | .instr (.amoMaxu dbl o c d a b) _ => execAmoMaxu dbl o c d a b s
  | .instr (.amoSwap dbl o c d a b) _ => execAmoSwap dbl o c d a b s
  | .instr (.amoFadd dbl o c d a b) _ => execAmoFadd dbl o c d a b s
  | .instr (.cas dbl o c d a b) _ => execCas dbl o c d a b s
  | _ => .next s

/-- SC_WINDOW_CLOSE (R193): TS has passed the window of a context's SC operation, and no operation of the partition with
an earlier stamp waits; the operation is performed, and its context is not ready for 40 core cycles. -/
def execScWindowClose (core ctx : Nat) (s : State) : Out :=
  match (s.ctx core ctx).wait with
  | .scWindow w n q =>
    let p := (s.recOf (s.ctx core ctx).tid).part
    if 32 * (w + 1) ≤ s.tsOf p ∧ ((s.scWaiting (s.part p).bulks).all fun x => !scBefore x (w, n, q)) = true then
      let old := s.cur
      let now := (s.core core).cycle
      let s := { s with cur := (core, ctx) }.modCtx core ctx fun x =>
        { x with wait := .none_, scOpen := true, scAt := some (w, n, q), readyAt := now + 40 }
      match s.scPerform with
      | .next t => .next { t with cur := old }
      | r => r
    else .next s
  | _ => .next s

end Sys2Proof.Machine
end

