-- ==== Sys2Proof/Machine/Scalar.lean ====
section
/-! DEFINITION. Scalar instructions: integer register and immediate operations (R98-R102), scalar floating point
(R103-R107), and the parcels that stand for them (R46). -/

namespace Sys2Proof.Machine

/-- 1 for true, 0 for false. -/
def boolWord (b : Bool) : Word := if b then 1#64 else 0#64

/-- Rotation left by n (R100). -/
def rotl (x : Word) (n : Nat) : Word := x <<< n ||| (if n = 0 then 0#64 else x >>> (64 - n))
/-- Signed quotient and remainder with the results of R101. -/
def divS (x y : Word) : Word := if y = 0#64 then BitVec.allOnes 64 else BitVec.ofInt 64 (x.toInt.tdiv y.toInt)
def remS (x y : Word) : Word := if y = 0#64 then x else BitVec.ofInt 64 (x.toInt.tmod y.toInt)
def divU (x y : Word) : Word := if y = 0#64 then BitVec.allOnes 64 else x / y
def remU (x y : Word) : Word := if y = 0#64 then x else x % y
/-- Number of leading zero bits of an n-bit number. -/
def clzN (n x : Nat) : Nat := if x = 0 then n else n - 1 - x.log2
/-- Number of trailing zero bits; 64 for 0. -/
def ctzW (x : Word) : Nat := if x = 0#64 then 64 else (x &&& (0#64 - x)).toNat.log2
/-- Number of one bits. -/
def popc (x : Word) : Nat := (List.range 64).foldl (fun n i => n + (x.getLsbD i).toNat) 0
/-- Bits in the reverse order. -/
def brev (x : Word) : Word := BitVec.ofNat 64 ((List.range 64).foldl (fun n i => n + if x.getLsbD (63 - i) then 2 ^ i else 0) 0)
/-- The shift amount of R100. -/
def shAmt (y : Word) : Nat := y.toNat % 64
/-- Signed and zero-extended immediates (R102). -/
def simm (i : BitVec 15) : Word := i.signExtend 64
def zimm (i : BitVec 15) : Word := i.setWidth 64

/-- ADD (R100). -/
def execAdd (d a b : GReg) (s : State) : Out := .next (s.ret d (s.g a + s.g b))
/-- SUB (R100). -/
def execSub (d a b : GReg) (s : State) : Out := .next (s.ret d (s.g a - s.g b))
/-- AND (R100). -/
def execAnd (d a b : GReg) (s : State) : Out := .next (s.ret d (s.g a &&& s.g b))
/-- OR (R100). -/
def execOr (d a b : GReg) (s : State) : Out := .next (s.ret d (s.g a ||| s.g b))
/-- XOR (R100). -/
def execXor (d a b : GReg) (s : State) : Out := .next (s.ret d (s.g a ^^^ s.g b))
/-- SHL (R100). -/
def execShl (d a b : GReg) (s : State) : Out := .next (s.ret d (s.g a <<< shAmt (s.g b)))
/-- SHR (R100). -/
def execShr (d a b : GReg) (s : State) : Out := .next (s.ret d (s.g a >>> shAmt (s.g b)))
/-- SRA (R100). -/
def execSra (d a b : GReg) (s : State) : Out := .next (s.ret d ((s.g a).sshiftRight (shAmt (s.g b))))
/-- ROT (R100). -/
def execRot (d a b : GReg) (s : State) : Out := .next (s.ret d (rotl (s.g a) (shAmt (s.g b))))
/-- MIN (R100). -/
def execMin (d a b : GReg) (s : State) : Out := .next (s.ret d (if (s.g a).slt (s.g b) then s.g a else s.g b))
/-- MAX (R100). -/
def execMax (d a b : GReg) (s : State) : Out := .next (s.ret d (if (s.g a).slt (s.g b) then s.g b else s.g a))
/-- MINU (R100). -/
def execMinu (d a b : GReg) (s : State) : Out := .next (s.ret d (if (s.g a).ult (s.g b) then s.g a else s.g b))
/-- MAXU (R100). -/
def execMaxu (d a b : GReg) (s : State) : Out := .next (s.ret d (if (s.g a).ult (s.g b) then s.g b else s.g a))
/-- SEL (R100). -/
def execSel (d a b : GReg) (s : State) : Out := .next (s.ret d (if s.g d = 0#64 then s.g b else s.g a))
/-- SLT (R100). -/
def execSlt (d a b : GReg) (s : State) : Out := .next (s.ret d (boolWord ((s.g a).slt (s.g b))))
/-- SLTU (R100). -/
def execSltu (d a b : GReg) (s : State) : Out := .next (s.ret d (boolWord ((s.g a).ult (s.g b))))
/-- MUL (R100). -/
def execMul (d a b : GReg) (s : State) : Out := .next (s.ret d (s.g a * s.g b))
/-- MULH (R100). -/
def execMulh (d a b : GReg) (s : State) : Out := .next (s.ret d (BitVec.ofInt 64 ((s.g a).toInt * (s.g b).toInt / (2 : Int) ^ 64)))
/-- MULHU (R100). -/
def execMulhu (d a b : GReg) (s : State) : Out := .next (s.ret d (BitVec.ofNat 64 ((s.g a).toNat * (s.g b).toNat / 2 ^ 64)))
/-- DIV (R100, R101); 32 core cycles (R99). -/
def execDiv (d a b : GReg) (s : State) : Out := .next ((s.ret d (divS (s.g a) (s.g b))).long d 32)
/-- DIVU (R100, R101); 32 core cycles (R99). -/
def execDivu (d a b : GReg) (s : State) : Out := .next ((s.ret d (divU (s.g a) (s.g b))).long d 32)
/-- REM (R100, R101); 32 core cycles (R99). -/
def execRem (d a b : GReg) (s : State) : Out := .next ((s.ret d (remS (s.g a) (s.g b))).long d 32)
/-- REMU (R100, R101); 32 core cycles (R99). -/
def execRemu (d a b : GReg) (s : State) : Out := .next ((s.ret d (remU (s.g a) (s.g b))).long d 32)
/-- CLZ (R100). -/
def execClz (d a : GReg) (s : State) : Out := .next (s.ret d (BitVec.ofNat 64 (clzN 64 (s.g a).toNat)))
/-- CTZ (R100). -/
def execCtz (d a : GReg) (s : State) : Out := .next (s.ret d (BitVec.ofNat 64 (ctzW (s.g a))))
/-- POPC (R100). -/
def execPopc (d a : GReg) (s : State) : Out := .next (s.ret d (BitVec.ofNat 64 (popc (s.g a))))
/-- SEXT (R100). -/
def execSext (z : Size) (d a : GReg) (s : State) : Out := .next (s.ret d (sextBytes (sizeBytes z) (s.g a).toNat))
/-- ZEXT (R100). -/
def execZext (z : Size) (d a : GReg) (s : State) : Out := .next (s.ret d (BitVec.ofNat 64 ((s.g a).toNat % 2 ^ (8 * sizeBytes z))))
/-- SEQ (R100). -/
def execSeq (d a b : GReg) (s : State) : Out := .next (s.ret d (boolWord (s.g a == s.g b)))
/-- SNE (R100). -/
def execSne (d a b : GReg) (s : State) : Out := .next (s.ret d (boolWord (s.g a != s.g b)))
/-- BREV (R100). -/
def execBrev (d a : GReg) (s : State) : Out := .next (s.ret d (brev (s.g a)))
/-- ADDI (R102). -/
def execAddi (d a : GReg) (imm : BitVec 15) (s : State) : Out := .next (s.ret d (s.g a + simm imm))
/-- ANDI (R102). -/
def execAndi (d a : GReg) (imm : BitVec 15) (s : State) : Out := .next (s.ret d (s.g a &&& zimm imm))
/-- ORI (R102). -/
def execOri (d a : GReg) (imm : BitVec 15) (s : State) : Out := .next (s.ret d (s.g a ||| zimm imm))
/-- XORI (R102). -/
def execXori (d a : GReg) (imm : BitVec 15) (s : State) : Out := .next (s.ret d (s.g a ^^^ zimm imm))
/-- SHLI (R102). -/
def execShli (d a : GReg) (n : BitVec 6) (s : State) : Out := .next (s.ret d (s.g a <<< n.toNat))
/-- SHRI (R102). -/
def execShri (d a : GReg) (n : BitVec 6) (s : State) : Out := .next (s.ret d (s.g a >>> n.toNat))
/-- SRAI (R102). -/
def execSrai (d a : GReg) (n : BitVec 6) (s : State) : Out := .next (s.ret d ((s.g a).sshiftRight n.toNat))
/-- SLTI (R102). -/
def execSlti (d a : GReg) (imm : BitVec 15) (s : State) : Out := .next (s.ret d (boolWord ((s.g a).slt (simm imm))))
/-- MOVI (R102). -/
def execMovi (d : GReg) (imm : BitVec 15) (s : State) : Out := .next (s.ret d (simm imm))
/-- LIS (R102): reads its destination. -/
def execLis (d : GReg) (imm : BitVec 15) (s : State) : Out := .next (s.ret d (s.g d <<< 15 ||| zimm imm))

/-- The format of a precision, and an operand read in it: an FP32 operand is bits [31:0] (R103). -/
def precFmt : Prec → Fmt
  | .f32 => fp32
  | .f64 => fp64
def precNat (p : Prec) (x : Word) : Nat := match p with | .f32 => x.toNat % 2 ^ 32 | .f64 => x.toNat
def precVal (p : Prec) (x : Word) : Fv := (precFmt p).value (precNat p x)

/-- A float result: g(d) and the conditions (R103, R107, R174). -/
def State.retF (s : State) (d : GReg) (r : Nat × Cond) : State := (s.raise r.2).ret d (BitVec.ofNat 64 r.1)
/-- A rounded operation on two operands and on one (R104). -/
def State.fop2 (s : State) (p : Prec) (rm : Rm) (f : Fv → Fv → Fv × Cond) (d a b : GReg) : State :=
  s.retF d ((precFmt p).op2 rm f (precNat p (s.g a)) (precNat p (s.g b)))
/-- Cycles before the next issue after FDIV and FSQRT (R99). -/
def fpCool : Prec → Nat
  | .f32 => 16
  | .f64 => 28
/-- Invalid for an ordered compare with a NaN (R107). -/
def nanCond (x y : Fv) : Cond := if x.isNan || y.isNan then Cond.invalid else Cond.none_

/-- FADD (R104). -/
def execFadd (p : Prec) (rm : Rm) (d a b : GReg) (s : State) : Out := .next (s.fop2 p rm (Fv.add rm) d a b)
/-- FSUB (R104). -/
def execFsub (p : Prec) (rm : Rm) (d a b : GReg) (s : State) : Out := .next (s.fop2 p rm (fun x y => x.add rm y.neg) d a b)
/-- FMUL (R104). -/
def execFmul (p : Prec) (rm : Rm) (d a b : GReg) (s : State) : Out := .next (s.fop2 p rm Fv.mul d a b)
/-- FDIV (R104); R99. -/
def execFdiv (p : Prec) (rm : Rm) (d a b : GReg) (s : State) : Out := .next ((s.fop2 p rm Fv.div d a b).long d (fpCool p))
/-- FSQRT (R104); R99. -/
def execFsqrt (p : Prec) (rm : Rm) (d a : GReg) (s : State) : Out := 
  .next ((s.retF d ((precFmt p).op1 rm Fv.sqrt (precNat p (s.g a)))).long d (fpCool p))
/-- FMIN (R80, R104): no condition. -/
def execFmin (p : Prec) (d a b : GReg) (s : State) : Out := 
  .next (s.ret d (BitVec.ofNat 64 ((precFmt p).minmax Fv.min (precNat p (s.g a)) (precNat p (s.g b)))))
/-- FMAX (R80, R104): no condition. -/
def execFmax (p : Prec) (d a b : GReg) (s : State) : Out := 
  .next (s.ret d (BitVec.ofNat 64 ((precFmt p).minmax Fv.max (precNat p (s.g a)) (precNat p (s.g b)))))
/-- FFMA (R104): one rounding of x × y + g(d). -/
def execFfma (p : Prec) (rm : Rm) (d a b : GReg) (s : State) : Out := 
  .next (s.retF d ((precFmt p).fma rm (precVal p (s.g a)) (precVal p (s.g b)) (precVal p (s.g d))))
/-- The other precision. -/
def otherPrec : Prec → Prec
  | .f32 => .f64
  | .f64 => .f32
/-- The result of a conversion (R105). -/
def fcvt (k : CvtKind) (p : Prec) (rm : Rm) (x : Word) : Nat × Cond :=
  match k with
  | .ff => (precFmt p).encode rm (precVal (otherPrec p) x)
  | .fi => let r := (precVal p x).toInt rm (-(2 : Int) ^ 63) ((2 : Int) ^ 63 - 1); (wrap 64 r.1, r.2)
  | .if_ => (precFmt p).encode rm (Fv.ofInt x.toInt)
  | .fu => let r := (precVal p x).toInt rm 0 ((2 : Int) ^ 64 - 1); (wrap 64 r.1, r.2)
/-- FCVT (R105). -/
def execFcvt (k : CvtKind) (p : Prec) (rm : Rm) (d a : GReg) (s : State) : Out := .next (s.retF d (fcvt k p rm (s.g a)))
/-- FCLASS (R106). -/
def execFclass (p : Prec) (d a : GReg) (s : State) : Out := 
  .next (s.ret d (BitVec.ofNat 64 (2 ^ (precFmt p).classBit (precNat p (s.g a)))))
/-- FEQ (R104): no condition. -/
def execFeq (p : Prec) (d a b : GReg) (s : State) : Out := .next (s.ret d (boolWord ((precVal p (s.g a)).eq (precVal p (s.g b)))))
/-- FLT (R104); invalid with a NaN (R107). -/
def execFlt (p : Prec) (d a b : GReg) (s : State) : Out := 
  let x := precVal p (s.g a)
  let y := precVal p (s.g b)
  .next (s.retF d ((x.lt y).toNat, nanCond x y))
/-- FLE (R104); invalid with a NaN (R107). -/
def execFle (p : Prec) (d a b : GReg) (s : State) : Out := 
  let x := precVal p (s.g a)
  let y := precVal p (s.g b)
  .next (s.retF d ((x.lt y || x.eq y).toNat, nanCond x y))

/-- A parcel writes g(d) and retires (R46). -/
def State.retS (s : State) (d : GReg) (x : Word) : State := (s.setG d x).adv 2
/-- NOP (R46). -/
def execNop (s : State) : Out := .next (s.adv 2)
/-- MOV: OR gD, gZ, g0 (R46). -/
def execMov (d z : GReg) (s : State) : Out := .next (s.retS d (s.g z))
/-- ADDI.S: ADDI gD, gD, imm (R46). -/
def execAddiS (d : GReg) (imm : BitVec 6) (s : State) : Out := .next (s.retS d (s.g d + imm.signExtend 64))
/-- SHLI.S: SHLI gD, gD, n (R46). -/
def execShliS (d : GReg) (n : BitVec 6) (s : State) : Out := .next (s.retS d (s.g d <<< n.toNat))

end Sys2Proof.Machine
end

