-- ==== Sys2Proof/Machine/Vector.lean ====
section
/-! DEFINITION. Vector instructions (R120-R136). -/

namespace Sys2Proof.Machine

/-- A vector instruction: on a deep core it stops the thread with 0x06 (R30, R120). -/
def State.vecOp (s : State) (f : State → State) : Out :=
  if isDeep s.cur.1 then .next (s.fault 0x06 0#64 0#64) else .next (f s)
/-- v(d) is written and the instruction retires. -/
def State.retV (s : State) (d : VReg) (x : Vec) : State := (s.setV d x).done

/-- The format of a vector float type, and its element width (R40, R123). -/
def vFmt : VType → Fmt
  | .f32 => fp32 | .bf16 => bf16 | .f16 => fp16 | .f64 => fp64
/-- Element width of a size. -/
def sizeBits (z : Size) : Nat := 8 * sizeBytes z
/-- The elements of a vector register, n bits each. -/
def elems (n : Nat) (x : Vec) : List Nat := (List.range (512 / n)).map (elem n x)
/-- Results of several lanes: the register and the conditions ORed together (R122). -/
def lanesOut (n : Nat) (l : List (Nat × Cond)) : Vec × Cond := (pack n (l.map fun x => x.1), Cond.all (l.map fun x => x.2))
/-- Float lanes: v(d) and the conditions (R122). -/
def State.retLanes (s : State) (d : VReg) (n : Nat) (l : List (Nat × Cond)) : State :=
  let r := lanesOut n l
  (s.raise r.2).retV d r.1

/-- A two-source float operation lane by lane (R123). -/
def State.vf2 (s : State) (t : VType) (f : Nat → Nat → Nat × Cond) (d a b : VReg) : State :=
  let n := (vFmt t).width
  s.retLanes d n (((elems n (s.v a)).zip (elems n (s.v b))).map fun x => f x.1 x.2)
/-- A one-source float operation lane by lane (R123). -/
def State.vf1 (s : State) (t : VType) (f : Nat → Nat × Cond) (d a : VReg) : State :=
  let n := (vFmt t).width
  s.retLanes d n ((elems n (s.v a)).map f)
/-- Core cycles before the next issue of the long functions (R121). -/
def vCool : VType → Nat
  | .f64 => 28
  | _ => 16
/-- x without its sign, or with the other; a NaN canonical (R123). -/
def Fmt.signed (f : Fmt) (g : Bool → Bool) (x : Nat) : Nat :=
  match f.value x with
  | .nan => f.nan
  | v => f.sign (g v.sign) + x % 2 ^ (f.w + f.m)

/-- VADD (R123). -/
def execVadd (t : VType) (d a b : VReg) (s : State) : Out :=
  s.vecOp fun s => s.vf2 t ((vFmt t).op2 .rne (Fv.add .rne)) d a b
/-- VSUB (R123). -/
def execVsub (t : VType) (d a b : VReg) (s : State) : Out :=
  s.vecOp fun s => s.vf2 t ((vFmt t).op2 .rne (fun x y => x.add .rne y.neg)) d a b
/-- VMUL (R123). -/
def execVmul (t : VType) (d a b : VReg) (s : State) : Out :=
  s.vecOp fun s => s.vf2 t ((vFmt t).op2 .rne Fv.mul) d a b
/-- VDIV (R123); R121. -/
def execVdiv (t : VType) (d a b : VReg) (s : State) : Out :=
  s.vecOp fun s => (s.vf2 t ((vFmt t).op2 .rne Fv.div) d a b).cool (vCool t)
/-- VMIN (R123). -/
def execVmin (t : VType) (d a b : VReg) (s : State) : Out :=
  s.vecOp fun s => s.vf2 t (fun x y => ((vFmt t).minmax Fv.min x y, Cond.none_)) d a b
/-- VMAX (R123). -/
def execVmax (t : VType) (d a b : VReg) (s : State) : Out :=
  s.vecOp fun s => s.vf2 t (fun x y => ((vFmt t).minmax Fv.max x y, Cond.none_)) d a b
/-- VABS (R123, R124). -/
def execVabs (t : VType) (d a : VReg) (s : State) : Out :=
  s.vecOp fun s => s.vf1 t (fun x => ((vFmt t).signed (fun _ => false) x, Cond.none_)) d a
/-- VNEG (R123, R124). -/
def execVneg (t : VType) (d a : VReg) (s : State) : Out :=
  s.vecOp fun s => s.vf1 t (fun x => ((vFmt t).signed (fun n => !n) x, Cond.none_)) d a
/-- VSQRT (R123, R124); R121. -/
def execVsqrt (t : VType) (d a : VReg) (s : State) : Out :=
  s.vecOp fun s => (s.vf1 t ((vFmt t).op1 .rne Fv.sqrt) d a).cool (vCool t)
/-- VRCP (R123, R124); R121. -/
def execVrcp (t : VType) (d a : VReg) (s : State) : Out :=
  s.vecOp fun s => (s.vf1 t ((vFmt t).op1 .rne (Fv.div (.fin false 1 0))) d a).cool (vCool t)
/-- VRSQ (R123, R124); R121. -/
def execVrsq (t : VType) (d a : VReg) (s : State) : Out :=
  s.vecOp fun s => (s.vf1 t ((vFmt t).op1 .rne Fv.rsqrt) d a).cool (vCool t)
/-- VEXP2 (R123, R124); R121. -/
def execVexp2 (t : VType) (d a : VReg) (s : State) : Out :=
  s.vecOp fun s => (s.vf1 t ((vFmt t).op1 .rne Fv.exp2) d a).cool (vCool t)
/-- VLOG2 (R123, R124); R121. -/
def execVlog2 (t : VType) (d a : VReg) (s : State) : Out :=
  s.vecOp fun s => (s.vf1 t ((vFmt t).op1 .rne Fv.log2) d a).cool (vCool t)

/-- An integer operation lane by lane on n-bit elements (R125). -/
def State.vi2 (s : State) (z : Size) (f : Nat → Nat → Nat → Nat) (d a b : VReg) : State :=
  let n := sizeBits z
  s.retV d (pack n (((elems n (s.v a)).zip (elems n (s.v b))).map fun x => f n x.1 x.2))

/-- VADD.i (R125). -/
def execVaddI (z : Size) (d a b : VReg) (s : State) : Out := s.vecOp fun s => s.vi2 z (fun _ x y => x + y) d a b
/-- VSUB.i (R125). -/
def execVsubI (z : Size) (d a b : VReg) (s : State) : Out := s.vecOp fun s => s.vi2 z (fun n x y => x + 2 ^ n - y) d a b
/-- VMUL.i (R125). -/
def execVmulI (z : Size) (d a b : VReg) (s : State) : Out := s.vecOp fun s => s.vi2 z (fun _ x y => x * y) d a b
/-- VMIN.i (R125). -/
def execVminI (z : Size) (d a b : VReg) (s : State) : Out := s.vecOp fun s => s.vi2 z (fun n x y => if signed n x ≤ signed n y then x else y) d a b
/-- VMAX.i (R125). -/
def execVmaxI (z : Size) (d a b : VReg) (s : State) : Out := s.vecOp fun s => s.vi2 z (fun n x y => if signed n x ≤ signed n y then y else x) d a b
/-- VMINU.i (R125). -/
def execVminuI (z : Size) (d a b : VReg) (s : State) : Out := s.vecOp fun s => s.vi2 z (fun _ x y => min x y) d a b
/-- VMAXU.i (R125). -/
def execVmaxuI (z : Size) (d a b : VReg) (s : State) : Out := s.vecOp fun s => s.vi2 z (fun _ x y => max x y) d a b
/-- VSHL.i (R125). -/
def execVshlI (z : Size) (d a b : VReg) (s : State) : Out := s.vecOp fun s => s.vi2 z (fun n x y => x <<< (y % n)) d a b
/-- VSHR.i (R125). -/
def execVshrI (z : Size) (d a b : VReg) (s : State) : Out := s.vecOp fun s => s.vi2 z (fun n x y => x >>> (y % n)) d a b
/-- VSRA.i (R125). -/
def execVsraI (z : Size) (d a b : VReg) (s : State) : Out := s.vecOp fun s => s.vi2 z (fun n x y => wrap n (signed n x >>> (y % n))) d a b
/-- VAND.i (R125). -/
def execVandI (z : Size) (d a b : VReg) (s : State) : Out := s.vecOp fun s => s.vi2 z (fun _ x y => x &&& y) d a b
/-- VOR.i (R125). -/
def execVorI (z : Size) (d a b : VReg) (s : State) : Out := s.vecOp fun s => s.vi2 z (fun _ x y => x ||| y) d a b
/-- VXOR.i (R125). -/
def execVxorI (z : Size) (d a b : VReg) (s : State) : Out := s.vecOp fun s => s.vi2 z (fun _ x y => x ^^^ y) d a b

/-- The value of a latch operand: the latch where it is held, else the register (R68). -/
def latch (held : Bool) (l r : Vec) : Vec := if held then l else r

/-- The multiply-add family (R126, R127): `sel` the broadcast lane of A, f the exact combination of x, y, c. -/
def State.vfmaOp (s : State) (h : BitVec 3) (t : VType) (sel : Option Nat) (f : Fmt → Fv → Fv → Fv → Nat × Cond)
    (d a b : VReg) : State :=
  let x := s.cc.regs
  let A := latch (h.getLsbD 0) x.la (s.v a)
  let B := latch (h.getLsbD 1) x.lb (s.v b)
  let C := latch (h.getLsbD 2) x.lc (s.v d)
  let m := vFmt t
  let n := m.width
  let per := match t with | .bf16 => 2 | .f16 => 2 | _ => 1
  let ix (i : Nat) : Nat := match sel with | some l => per * l + i % per | none => i
  let r := lanesOut n ((List.range (512 / n)).map fun i =>
    f m (m.value (elem n A (ix i))) (m.value (elem n B i)) (m.value (elem n C i)))
  ((s.raise r.2).setV d r.1).done.modCur fun c => c.modRegs fun g => { g with la := A, lb := B, lc := r.1 }

/-- VFMA with a lane of A broadcast (R126). -/
def execVfmaBcast (h : BitVec 3) (t : VType) (lane : BitVec 4) (d a b : VReg) (s : State) : Out :=
  s.vecOp fun s => s.vfmaOp h t (some lane.toNat) (fun m x y c => m.fma .rne x y c) d a b
/-- VFMA (R126): x × y + c. -/
def execVfma (h : BitVec 3) (t : VType) (d a b : VReg) (s : State) : Out :=
  s.vecOp fun s => s.vfmaOp h t none (fun m x y c => m.fma .rne x y c) d a b
/-- VFMS (R126): x × y − c. -/
def execVfms (h : BitVec 3) (t : VType) (d a b : VReg) (s : State) : Out :=
  s.vecOp fun s => s.vfmaOp h t none (fun m x y c => m.fma .rne x y c.neg) d a b
/-- VFNMA (R126): c − x × y. -/
def execVfnma (h : BitVec 3) (t : VType) (d a b : VReg) (s : State) : Out :=
  s.vecOp fun s => s.vfmaOp h t none (fun m x y c => m.fma .rne x.neg y c) d a b

/-- A compare of 32-bit lanes and its condition (R128). -/
def vcond (c : VCond) (x y : Nat) : Bool × Cond :=
  let p := fp32.value x
  let q := fp32.value y
  match c with
  | .eq => (x == y, Cond.none_)
  | .ne => (x != y, Cond.none_)
  | .lt => (decide (signed 32 x < signed 32 y), Cond.none_)
  | .ltu => (decide (x < y), Cond.none_)
  | .feq => (p.eq q, Cond.none_)
  | .flt => (p.lt q, nanCond p q)
  | .fle => (p.lt q || p.eq q, nanCond p q)
  | .fun_ => (p.isNan || q.isNan, Cond.none_)

/-- A mask word from sixteen lane bits (R128). -/
def maskWord : List Bool → Nat
  | [] => 0
  | b :: l => b.toNat + 2 * maskWord l

/-- VCMP (R128). -/
def execVcmp (c : VCond) (m : GReg) (a b : VReg) (s : State) : Out :=
  s.vecOp fun s =>
    let l := ((elems 32 (s.v a)).zip (elems 32 (s.v b))).map fun x => vcond c x.1 x.2
    (s.raise (Cond.all (l.map fun x => x.2))).ret m (BitVec.ofNat 64 (maskWord (l.map fun x => x.1)))
/-- VSEL (R129). -/
def execVsel (m : GReg) (d a b : VReg) (s : State) : Out :=
  s.vecOp fun s => s.retV d (vmap 32 fun i => if (s.g m).getLsbD i then elem 32 (s.v a) i else elem 32 (s.v b) i)
/-- VTEST (R129). -/
def execVtest (q : VTestOp) (m d : GReg) (a b : VReg) (s : State) : Out :=
  s.vecOp fun s =>
    let on := (List.range 16).filter fun i => (s.g m).getLsbD i
    let yes := on.filter fun i => elem 32 (s.v a) i &&& elem 32 (s.v b) i ≠ 0
    s.ret d (match q with
      | .any => boolWord (!yes.isEmpty)
      | .all => boolWord (decide (yes.length = on.length))
      | .none_ => boolWord yes.isEmpty
      | .count => BitVec.ofNat 64 yes.length)

/-- Elements of n bits converted between two float formats, rne (R87, R130). -/
def cvtFF (f g : Fmt) (x : Nat) : Nat × Cond := g.encode .rne (f.value x)
/-- Finite. -/
def Fv.isFin : Fv → Bool
  | .fin _ _ _ => true
  | _ => false
/-- Floats to signed integers of n bits (R88, R130): a finite value that saturates is invalid and inexact (R122). -/
def cvtFI (f : Fmt) (rm : Rm) (n : Nat) (x : Nat) : Nat × Cond :=
  let v := f.value x
  let r := v.toInt rm (-(2 : Int) ^ (n - 1)) ((2 : Int) ^ (n - 1) - 1)
  (wrap n r.1, if r.2.nv && v.isFin then r.2.or Cond.inexact else r.2)
/-- Signed integers of n bits to floats (R130). -/
def cvtIF (f : Fmt) (n : Nat) (x : Nat) : Nat × Cond := f.encode .rne (Fv.ofInt (signed n x))
/-- The conversions of R130: element width of the result and its elements. -/
def vcvt (c : VCvtCode) (a b : Vec) : Nat × List (Nat × Cond) :=
  match c with
  | .f32bf16 => (16, (elems 32 a ++ elems 32 b).map (cvtFF fp32 bf16))
  | .f32f16 => (16, (elems 32 a ++ elems 32 b).map (cvtFF fp32 fp16))
  | .bf16f32lo => (32, ((elems 16 a).take 16).map (cvtFF bf16 fp32))
  | .bf16f32hi => (32, ((elems 16 a).drop 16).map (cvtFF bf16 fp32))
  | .f16f32lo => (32, ((elems 16 a).take 16).map (cvtFF fp16 fp32))
  | .f16f32hi => (32, ((elems 16 a).drop 16).map (cvtFF fp16 fp32))
  | .f32i32 => (32, (elems 32 a).map (cvtFI fp32 .rne 32))
  | .f32i32rtz => (32, (elems 32 a).map (cvtFI fp32 .rtz 32))
  | .i32f32 => (32, (elems 32 a).map (cvtIF fp32 32))
  | .f32f64lo => (64, ((elems 32 a).take 8).map (cvtFF fp32 fp64))
  | .f32f64hi => (64, ((elems 32 a).drop 8).map (cvtFF fp32 fp64))
  | .f64f32 => (32, (elems 64 a ++ elems 64 b).map (cvtFF fp64 fp32))
  | .f64i64rtz => (64, (elems 64 a).map (cvtFI fp64 .rtz 64))
  | .i64f64 => (64, (elems 64 a).map (cvtIF fp64 64))
/-- VCVT (R130). -/
def execVcvt (c : VCvtCode) (d a b : VReg) (s : State) : Out :=
  s.vecOp fun s =>
    let r := vcvt c (s.v a) (s.v b)
    s.retLanes d r.1 r.2

/-- The float format of a packed code, the width of an integer one, the kind of a q4 one (R131). -/
inductive PackKind | float (f : Fmt) | int (n : Nat) | q4 (k : Nat) deriving DecidableEq, Repr
def packKind : PackCode → PackKind
  | .e4m3 => .float e4m3 | .e5m2 => .float e5m2 | .e3m2 => .float e3m2 | .e2m3 => .float e2m3
  | .int8 => .int 8 | .int4 => .int 4
  | .q4k0 => .q4 0 | .q4k1 => .q4 1 | .q4k2 => .q4 2 | .q4k3 => .q4 3
/-- 32 FP32 inputs packed (R131): the bytes the layout does not use are zero. -/
def vpack (c : PackCode) (xs : List Nat) : Vec × Cond :=
  match packKind c with
  | .float f => let l := xs.map (cvtFF fp32 f); (pack f.width (l.map fun x => x.1), Cond.all (l.map fun x => x.2))
  | .int n => let l := xs.map (cvtFI fp32 .rne n); (pack n (l.map fun x => x.1), Cond.all (l.map fun x => x.2))
  | .q4 k =>
    let (cs, sb, e) := q4Quant k (xs.map fp32.value)
    (BitVec.ofNat 512 (packNat 4 cs + sb * 2 ^ 128), e)
/-- VPACK (R131). -/
def execVpack (c : PackCode) (d a b : VReg) (s : State) : Out :=
  s.vecOp fun s =>
    let r := vpack c (elems 32 (s.v a) ++ elems 32 (s.v b))
    (s.raise r.2).retV d r.1
/-- Element i of a packed register as FP32, exactly (R132); a q4 block's codes mean what its
scale byte's kind says (R82, log 24), and a value −0 of a q4 code gives +0. -/
def vunpk (c : PackCode) (x : Vec) (i : Nat) : Nat :=
  match packKind c with
  | .float f => (fp32.encode .rne (f.value (elem f.width x i))).1
  | .int n => (fp32.encode .rne (Fv.ofInt (signed n (elem n x i)))).1
  | .q4 _ => (fp32.encode .rne (q4Value (elem 8 x 16) (elem 4 x i))).1
/-- VUNPK (R132). -/
def execVunpk (c : PackCode) (hi : Bool) (d a : VReg) (s : State) : Out :=
  s.vecOp fun s => s.retV d (vmap 32 fun i => vunpk c (s.v a) (if hi then 16 + i else i))

/-- VSCALE (R133). -/
def execVscale (t : VType) (d a b : VReg) (s : State) : Out :=
  s.vecOp fun s => s.vf2 t (fun x y => (vFmt t).encode .rne (((vFmt t).value x).scale (signed (vFmt t).width y))) d a b

/-- VPERM (R134). -/
def execVperm (dbl : Bool) (d a b : VReg) (s : State) : Out :=
  s.vecOp fun s =>
    let n := if dbl then 64 else 32
    s.retV d (vmap n fun i => elem n (s.v a) (elem n (s.v b) i % (512 / n)))
/-- VBCAST (R134). -/
def execVbcast (z : Size) (d : VReg) (a : GReg) (s : State) : Out :=
  s.vecOp fun s => s.retV d (vmap (sizeBits z) fun _ => (s.g a).toNat)

/-- One level of the pairwise tree (R135). -/
def pairUp (f : Nat → Nat → Nat × Cond) : List Nat → List Nat × Cond
  | x :: y :: l =>
    let r := f x y
    let t := pairUp f l
    (r.1 :: t.1, r.2.or t.2)
  | l => (l, Cond.none_)
/-- The levels of the tree. -/
def treeRed (f : Nat → Nat → Nat × Cond) : Nat → List Nat → Nat × Cond
  | 0, l => (l.headD 0, Cond.none_)
  | k + 1, l =>
    let r := pairUp f l
    let t := treeRed f k r.1
    (t.1, r.2.or t.2)
/-- Lane width and step of a reduction (R135). -/
def redWidth : VRedOp → Nat
  | .fadd => 32 | .fmax => 32 | .fmin => 32 | .addw => 32 | .maxw => 32 | .minw => 32
  | .addd => 64 | .faddf64 => 64 | .and => 64 | .or => 64 | .xor => 64
def redStep (o : VRedOp) (p q : Nat) : Nat × Cond :=
  match o with
  | .fadd => fp32.op2 .rne (Fv.add .rne) p q
  | .fmax => (fp32.minmax Fv.max p q, Cond.none_)
  | .fmin => (fp32.minmax Fv.min p q, Cond.none_)
  | .addw => ((p + q) % 2 ^ 32, Cond.none_)
  | .maxw => (if signed 32 p ≤ signed 32 q then q else p, Cond.none_)
  | .minw => (if signed 32 p ≤ signed 32 q then p else q, Cond.none_)
  | .addd => ((p + q) % 2 ^ 64, Cond.none_)
  | .faddf64 => fp64.op2 .rne (Fv.add .rne) p q
  | .and => (p &&& q, Cond.none_)
  | .or => (p ||| q, Cond.none_)
  | .xor => (p ^^^ q, Cond.none_)
/-- The result's place in g(d) (R135). -/
def redPlace (o : VRedOp) (x : Nat) : Word :=
  match o with
  | .addw => sextBytes 4 x
  | .maxw => sextBytes 4 x
  | .minw => sextBytes 4 x
  | _ => BitVec.ofNat 64 x
/-- VRED (R135); R121. -/
def execVred (o : VRedOp) (d : GReg) (a : VReg) (s : State) : Out :=
  s.vecOp fun s =>
    let n := redWidth o
    let r := treeRed (redStep o) (if n = 32 then 4 else 3) (elems n (s.v a))
    ((s.raise r.2).ret d (redPlace o r.1)).cool 12

/-- VMOVG (R136). -/
def execVmovg (ix : BitVec 5) (d : GReg) (a : VReg) (s : State) : Out :=
  s.vecOp fun s =>
    s.ret d (BitVec.ofNat 64 (if ix.toNat < 16 then elem 32 (s.v a) ix.toNat else elem 64 (s.v a) (ix.toNat - 16)))
/-- VMOVV (R136). -/
def execVmovv (d a : VReg) (s : State) : Out := s.vecOp fun s => s.retV d (s.v a)
/-- VLANE (R136). -/
def execVlane (ix : BitVec 5) (d : VReg) (a : GReg) (s : State) : Out :=
  s.vecOp fun s =>
    let x := (s.g a).toNat
    s.retV d (
      if ix.toNat < 16 then vmap 32 fun i => if i = ix.toNat then x else elem 32 (s.v d) i
      else if ix.toNat < 24 then vmap 64 fun i => if i = ix.toNat - 16 then x else elem 64 (s.v d) i
      else vmap 32 fun i => x + i)

end Sys2Proof.Machine
end

