-- ==== Sys2Proof/Machine/Basin.lean ====
section
/-! DEFINITION. The basin: its layout and arithmetic (R92-R96) and the five instructions (R137-R140). -/

namespace Sys2Proof.Machine

/-- A basin block (R92): the window as a signed integer, the base exponent, the flags byte, the reserved bytes. -/
structure Basin where
  win : Int
  base : Int
  ovf : Bool
  loss : Bool
  nan : Bool
  pinf : Bool
  ninf : Bool
  deriving DecidableEq, Repr

/-- The basin a block's bytes hold (R92). -/
def Basin.ofMem (m : Mem) (k : Nat) : Basin :=
  let f := m.byte (k + 0x32)
  { win := signed 384 (m.num k 48), base := signed 16 (m.num (k + 0x30) 2), ovf := f.getLsbD 0, loss := f.getLsbD 1,
    nan := f.getLsbD 2, pinf := f.getLsbD 3, ninf := f.getLsbD 4 }
/-- The 64 bytes of a basin: its reserved bits and bytes are zero (R92). -/
def Basin.bytes (b : Basin) : List Byte :=
  leBytes 48 (wrap 384 b.win) ++ leBytes 2 (wrap 16 b.base) ++
  leBytes 1 (b.ovf.toNat + 2 * b.loss.toNat + 4 * b.nan.toNat + 8 * b.pinf.toNat + 16 * b.ninf.toNat) ++ leBytes 13 0

/-- b is in its valid range (R92). -/
def Basin.okBase (b : Basin) : Bool := decide (-1200 ≤ b.base) && decide (b.base ≤ 1100)

/-- A finite value ± man × 2^exp added (R93). -/
def Basin.addFin (b : Basin) (neg : Bool) (man : Nat) (exp : Int) : Basin :=
  let v : Int := if neg then -(man : Int) else man
  let d := exp - b.base
  let y : Int := if 0 ≤ d then v * (2 : Int) ^ d.toNat else v / (2 : Int) ^ (-d).toNat
  let loss := decide (d < 0) && decide (v % (2 : Int) ^ (-d).toNat ≠ 0)
  let t := b.win + y
  { b with
    win := signed 384 (wrap 384 t), loss := b.loss || loss,
    ovf := b.ovf || decide (t < -(2 : Int) ^ 383) || decide ((2 : Int) ^ 383 - 1 < t) }
/-- XADD's and XMADD's addition of a value (R93). -/
def Basin.add (b : Basin) (x : Fv) : Basin :=
  if b.okBase = false then { b with nan := true }
  else match x with
    | .nan => { b with nan := true }
    | .inf n => if n then { b with ninf := true } else { b with pinf := true }
    | .fin n m e => b.addFin n m e
/-- XMERGE (R94). -/
def Basin.merge (d s : Basin) : Basin :=
  let d' := { d with
    ovf := d.ovf || s.ovf, loss := d.loss || s.loss, nan := d.nan || s.nan, pinf := d.pinf || s.pinf,
    ninf := d.ninf || s.ninf }
  if d.okBase && s.okBase then d'.addFin (decide (s.win < 0)) s.win.natAbs s.base else { d' with nan := true }
/-- XRND's result (R95), with its conditions (R139). -/
def Basin.round (b : Basin) (f : Fmt) (rm : Rm) : Nat × Cond :=
  if b.nan || (b.pinf && b.ninf) || b.ovf then (f.nan, Cond.none_)
  else if b.pinf then f.encode rm (.inf false)
  else if b.ninf then f.encode rm (.inf true)
  else if b.win = 0 then (0, Cond.none_)
  else f.round rm (decide (b.win < 0)) b.win.natAbs b.base

/-- The tarn key of a basin address, if it is valid (R137). -/
def State.basinKey (s : State) (va : Word) : Option Nat :=
  let x := va.toNat % 2 ^ 48
  let p := s.part s.me.part
  if va.toNat % 64 ≠ 0 then none
  else if va.toNat / 2 ^ 48 = 0xfffe ∧ x / 2 ^ 23 < 6 * p.n ∧ x % 2 ^ 23 < 2 ^ 22 then
    some (tarnKey (p.clOfFlat (x / 2 ^ 23)) (x % 2 ^ 23))
  else if va.toNat / 2 ^ 48 = 0xffff ∧ x < 2 ^ 22 then some (tarnKey (coreUnit s.cur.1) x)
  else none

/-- A basin instruction at an address: fault 0x06 on a deep core (R120), 0x09 when it is not valid (R137). -/
def State.basinOp (s : State) (va : Word) (f : Nat → State → State) : State :=
  if isDeep s.cur.1 then s.fault 0x06 0#64 0#64
  else match s.basinKey va with
    | none => s.fault 0x09 va 0#64
    | some k => f k s
/-- A basin written: the read-modify-write of its block keeps the block's poison (R353); XCLR clears it. -/
def State.setBasin (s : State) (k : Nat) (b : Basin) : State := s.writeMem k b.bytes (s.mem.poisoned k 64)

/-- XCLR (R138). -/
def execXclr (_rel : Bool) (a b : GReg) (s : State) : Out :=
  .next (s.basinOp (s.g a) fun k s =>
    (s.writeMem k (Basin.bytes { win := 0, base := signed 16 (s.g b).toNat, ovf := false, loss := false, nan := false,
                                 pinf := false, ninf := false }) false).done)
/-- The addends of XADD, in lane order (R138). -/
def State.xaddends (s : State) (f : XForm) (b : BitVec 5) : List Fv :=
  match f with
  | .f32 => [precVal .f32 (s.g b)]
  | .f64 => [precVal .f64 (s.g b)]
  | .vf32 => (elems 32 (s.v b)).map fp32.value
  | .vf64 => (elems 64 (s.v b)).map fp64.value
/-- XADD (R93, R138). -/
def execXadd (_rel : Bool) (f : XForm) (a : GReg) (b : BitVec 5) (s : State) : Out :=
  .next (s.basinOp (s.g a) fun k s => (s.setBasin k ((s.xaddends f b).foldl Basin.add (Basin.ofMem s.mem k))).done)
/-- The products of XMADD, in lane order (R138). -/
def State.xproducts (s : State) (vec : Bool) (b c : BitVec 5) : List Fv :=
  if vec then ((elems 32 (s.v b)).zip (elems 32 (s.v c))).map fun x => ((fp32.value x.1).mul (fp32.value x.2)).1
  else [((precVal .f32 (s.g b)).mul (precVal .f32 (s.g c))).1]
/-- XMADD (R93, R138). -/
def execXmadd (_rel vec : Bool) (a : GReg) (b c : BitVec 5) (s : State) : Out :=
  .next (s.basinOp (s.g a) fun k s => (s.setBasin k ((s.xproducts vec b c).foldl Basin.add (Basin.ofMem s.mem k))).done)
/-- XRND (R95, R139); R121. -/
def execXrnd (_acq : Bool) (p : Prec) (rm : Rm) (d a : GReg) (s : State) : Out :=
  .next (s.basinOp (s.g a) fun k s => (s.retF d ((Basin.ofMem s.mem k).round (precFmt p) rm)).cool 24)
/-- XMERGE (R94, R139): the source's address is checked first (R137). -/
def execXmerge (_rel : Bool) (a b : GReg) (s : State) : Out :=
  .next (s.basinOp (s.g b) fun ks s => s.basinOp (s.g a) fun kd s =>
    (s.writeMem kd ((Basin.ofMem s.mem kd).merge (Basin.ofMem s.mem ks)).bytes
      (s.mem.poisoned kd 64 || s.mem.poisoned ks 64)).done)

end Sys2Proof.Machine
end

