-- ==== Sys2Proof/Machine/Branch.lean ====
section
/-! DEFINITION. Branches, jumps, register moves of majors 0x0b-0x14 and their parcels (R108-R114, R45-R47). -/

namespace Sys2Proof.Machine

/-- A branch of the BR format: PC + 2 × sext(off15) when taken, else PC + 4 (R108). -/
def State.branch (s : State) (taken : Bool) (off : BitVec 15) : State :=
  s.goto (if taken then s.pc + 2#64 * off.signExtend 64 else s.pc + 4#64)

/-- BEQ (R108). -/
def execBeq (a b : GReg) (off : BitVec 15) (s : State) : Out := .next (s.branch (s.g a == s.g b) off)
/-- BNE (R108). -/
def execBne (a b : GReg) (off : BitVec 15) (s : State) : Out := .next (s.branch (s.g a != s.g b) off)
/-- BLT (R108): signed. -/
def execBlt (a b : GReg) (off : BitVec 15) (s : State) : Out := .next (s.branch ((s.g a).slt (s.g b)) off)
/-- BGE (R108): signed. -/
def execBge (a b : GReg) (off : BitVec 15) (s : State) : Out := .next (s.branch (!(s.g a).slt (s.g b)) off)
/-- BLTU (R108). -/
def execBltu (a b : GReg) (off : BitVec 15) (s : State) : Out := .next (s.branch ((s.g a).ult (s.g b)) off)
/-- BGEU (R108). -/
def execBgeu (a b : GReg) (off : BitVec 15) (s : State) : Out := .next (s.branch (!(s.g a).ult (s.g b)) off)

/-- J (R109). -/
def execJ (off : BitVec 25) (s : State) : Out := .next (s.goto (s.pc + 2#64 * off.signExtend 64))
/-- JAL (R109): the link in g31. -/
def execJal (off : BitVec 25) (s : State) : Out :=
  .next ((s.setG 31#5 (s.pc + 4#64)).goto (s.pc + 2#64 * off.signExtend 64))

/-- A computed jump (R38, R110): bit 0 set is fault 0x03 with the jump's own PC; else the link, then the target. -/
def State.jump (s : State) (target : Word) (link : Option GReg) : State :=
  if target.getLsbD 0 then s.fault 0x03 target 0#64
  else (match link with | some d => s.setG d (s.pc + 4#64) | none => s).goto target

/-- JR (R110). -/
def execJr (a : GReg) (s : State) : Out := .next (s.jump (s.g a) none)
/-- JALR (R110): the target is read before the link is written. -/
def execJalr (d a : GReg) (s : State) : Out := .next (s.jump (s.g a) (some d))
/-- RET: JR g31 (R46). -/
def execRet (s : State) : Out := .next (s.jump (s.g 31#5) none)

/-- BZ: BEQ gD, g0 with a six-bit offset (R46). -/
def execBz (d : GReg) (off : BitVec 6) (s : State) : Out :=
  .next (s.goto (if s.g d = 0#64 then s.pc + 2#64 * off.signExtend 64 else s.pc + 2#64))
/-- BNZ (R46). -/
def execBnz (d : GReg) (off : BitVec 6) (s : State) : Out :=
  .next (s.goto (if s.g d = 0#64 then s.pc + 2#64 else s.pc + 2#64 * off.signExtend 64))
/-- J.S (R46). -/
def execJS (off : BitVec 11) (s : State) : Out := .next (s.goto (s.pc + 2#64 * off.signExtend 64))

/-- SETE (R111, R72). -/
def execSete (f : XFile) (n : BitVec 5) (a : GReg) (s : State) : Out :=
  .next ((s.modCur fun c => c.modRegs fun r => match f with
    | .e => r.setE n.toNat (s.g a)
    | .i => r.setI n.toNat (s.g a)).done)
/-- GETE (R111). -/
def execGete (f : XFile) (d : GReg) (n : BitVec 5) (s : State) : Out :=
  .next (s.ret d (match f with | .e => s.cc.regs.getE n.toNat | .i => s.cc.regs.getI n.toNat))
/-- RDTS (R112, R363): TS as the partition reads it. -/
def execRdts (d : GReg) (s : State) : Out := .next (s.ret d (BitVec.ofNat 64 (s.tsOf s.me.part)))

/-- Where the current thread runs (R113): selector 1. -/
def State.placeWord (s : State) : Word :=
  let k := s.cur.1
  let p := s.part s.me.part
  let deep := isDeep k
  BitVec.ofNat 64 ((if deep then 0xffff else p.flatCore k % 2 ^ 16) +
    (if deep then 0xffff else p.flatCl (coreUnit k) % 2 ^ 16) * 2 ^ 16 +
    s.cur.2 % 16 * 2 ^ 32 + coreBulk k % 64 * 2 ^ 40 + (if deep then 2 ^ 63 else 0))
/-- Selector 2: VF, partition, bulkheads, table (R113). -/
def State.partWord (s : State) : Word :=
  let r := s.me
  BitVec.ofNat 64 (r.vf % 256 + r.part % 64 * 2 ^ 8 + (s.part r.part).n % 64 * 2 ^ 16 + r.table.toNat * 2 ^ 32)
/-- RDID (R113). -/
def execRdid (ix : RdSel) (d : GReg) (s : State) : Out :=
  .next (s.ret d (match ix with
    | .id => s.tid.setWidth 64
    | .place => s.placeWord
    | .part => s.partWord))

/-- POOL n (R47): PC + 2 + 2 n. -/
def execPool (n : BitVec 6) (s : State) : Out := .next (s.goto (s.pc + BitVec.ofNat 64 (2 + 2 * n.toNat)))
/-- POOLW n (R45, R47): PC + 4 + 2 n. -/
def execPoolw (n : BitVec 15) (s : State) : Out := .next (s.goto (s.pc + BitVec.ofNat 64 (4 + 2 * n.toNat)))

/-- YIELD.G (R114, R285): an arrival when a switch away from the thread's VF with a yield deadline is pending; never for a
steward or a deep-core context (R286). -/
def execYieldG (s : State) : Out :=
  let r := s.me
  let s' := s.done
  match (s.part r.part).switch with
  | none => .next s'
  | some w =>
    if w.coop = true ∧ s.reached r.part s.cur.1 w = false ∧ s.vfRuns r.part r.vf = true ∧ isDeep s.cur.1 = false ∧ s.cur.2 ≠ 0 then
      .next ((s'.waitFor .yieldG).modPart r.part fun p =>
        { p with switch := p.switch.map fun w => { w with arrived := w.arrived + 1 } })
    else .next s'

end Sys2Proof.Machine
end

