-- ==== Sys2Proof/Machine/Groups.lean ====
section
/-! DEFINITION. Group loads (R179-R184): membership, the ask, the fill, its completion words, the timer. -/

namespace Sys2Proof.Machine

/-- A group entry, and the member slots of a group (R179). -/
def State.grp (s : State) (p g : Nat) : Group := fget Group.empty (s.part p).groups g
def State.setGrp (s : State) (p g : Nat) (x : Group) : State := s.modPart p fun y => { y with groups := fput y.groups g x }
def State.mems (s : State) (p g : Nat) : List Member := fget [] (s.part p).members g
def State.setMems (s : State) (p g : Nat) (x : List Member) : State :=
  s.modPart p fun y => { y with members := fput y.members g x }
/-- The bulkhead that holds a group's entry (R179). -/
def Part.groupBulk (p : Part) (g : Nat) : Nat := p.bulkOf (g % p.n)

/-- The agent that reads a fill's source (R409). -/
def State.fillAgent (s : State) (p g : Nat) (f : Fill) : Agent :=
  let b := (s.part p).groupBulk g
  { part := p, vf := f.vf, bulk := b, unit := 8 * b, deep := false, engine := true, tid := 0#32, holder := .group p g }

/-- The first address of each page of a source, after its own (R183). -/
def pageStarts (va : Word) (len : Nat) : List Word :=
  (List.range ((va.toNat % 65536 + len + 65535) / 65536)).map fun i =>
    if i = 0 then va else BitVec.ofNat 64 ((va.toNat / 65536 + i) * 65536)

/-- The places of a source, one per page: all of them, or the first that is not to be had. -/
def State.locateAll (s : State) (g : Agent) (a : Acc) : List Word → Option (List Place) × Option Ares × State
  | [] => (some [], none, s)
  | va :: l =>
    match s.locate g a va with
    | (.ok p, s) =>
      match s.locateAll g a l with
      | (some ps, r, s) => (some (p :: ps), r, s)
      | x => x
    | (r, s) => (none, some r, s)

/-- A fill takes the translation of its source (R183): a page request holds it, a refusal marks it. Its windows admit the read when it
is made (R340). -/
def State.fillLocate (s : State) (p g : Nat) (f : Fill) : Fill × State :=
  if f.places.isSome || f.bad then (f, s)
  else match s.locateAll (s.fillAgent p g f) (Acc.vload 64) (pageStarts f.source f.len) with
    | (some ps, _, s) => ({ f with places := some ps, mark := s.opSeq }, { s with opSeq := s.opSeq + 1 })
    | (none, some (.fault _ _), s) => ({ f with bad := true }, s)
    | (none, _, s) => (f, s)

/-- The start of the fill of sequence L + 1 (R183). -/
def State.startFill (s : State) (p g : Nat) (timed : Bool) : State :=
  let e := s.grp p g
  let q := e.l + 1#32
  let f : Fill := { seq := q, timed := timed, asked := e.a, off := e.off + q.toNat % 2 * e.size, source := e.source, len := e.len,
                    vf := e.askVf, places := none, mark := 0, bad := false }
  let (f, s) := s.fillLocate p g f
  s.setGrp p g { e with l := q, p := false, a := 0, asked := [], fills := e.fills ++ [f] }

/-- A departure (R184): of the member whose slot is in cluster fc. -/
def State.depart (s : State) (p g fc : Nat) : State :=
  let e := s.grp p g
  let was := e.asked.contains fc
  let e := { e with
    members := e.members.filter fun x => x ≠ fc, asked := e.asked.filter fun x => x ≠ fc,
    a := if was then e.a - 1 else e.a, j := e.j - 1, m := e.m - 1 }
  let s := s.setMems p g ((s.mems p g).filter fun x => x.fc ≠ fc)
  if e.m = 0 then s.setGrp p g { e with valid := false, p := false, a := 0, asked := [] }
  else
    let s := s.setGrp p g e
    if e.p && e.a == e.m then s.startFill p g false else s

/-- A deadline that has passed starts its fill before a later operation on the entry (R180, R182). -/
def State.groupTick (s : State) (p g : Nat) : State :=
  let e := s.grp p g
  if e.valid = true ∧ e.p = true ∧ e.deadline < s.tsOf p then s.startFill p g true else s
/-- A thread departs every group (R184, R266), each as by a GLEAVE. -/
def State.departAll (s : State) (p : Nat) (t : W32) : State :=
  (List.range 64).foldl (fun s g =>
    if (s.grp p g).valid then
      let l := (s.mems p g).filter fun x => x.tid == t
      l.foldl (fun s x => s.depart p g x.fc) (if l.isEmpty then s else s.groupTick p g)
    else s) s

/-- A group instruction: fault 0x06 on a deep core (R30). -/
def State.groupOp (s : State) (a : GReg) (f : State → State) : Out :=
  if isDeep s.cur.1 then .next (s.fault 0x06 0#64 0#64)
  else .next (f (if (s.g a).toNat ≤ 63 then s.groupTick s.me.part (s.g a).toNat else s))

/-- The operands of GJOIN within their limits (R181). -/
def State.gjoinBad (s : State) (a : GReg) : Bool :=
  let o := (s.e 0).toNat
  let z := (s.e 1).toNat
  let m := bitsOf (s.e 2) 0 9
  decide (63 < (s.g a).toNat) || o % 64 != 0 || z % 64 != 0 || z == 0 || decide (2 ^ 22 < o + 2 * z) || m == 0 ||
  decide (6 * (s.part s.me.part).n < m) || bitsOf (s.e 2) 32 32 == 0 || bitsOf (s.e 2) 9 23 != 0 || !canonical (s.e 3) ||
  (s.e 3).toNat % 8 != 0 || bitsOf (s.e 4) 1 63 != 0

/-- GJOIN (R181). -/
def execGjoin (d a : GReg) (s : State) : Out :=
  s.groupOp a fun s =>
    if s.gjoinBad a then s.ret d 7#64
    else
      let p := s.me.part
      let g := (s.g a).toNat
      let e := s.grp p g
      let o := (s.e 0).toNat
      let z := (s.e 1).toNat
      let m := bitsOf (s.e 2) 0 9
      let t := bitsOf (s.e 2) 32 32
      let u := coreUnit s.cur.1
      let fc := (s.part p).flatCl u
      if e.valid && (e.off != o || e.size != z || e.m != m || e.timer != t) then s.ret d 2#64
      else if e.valid && e.j == e.m then s.ret d 1#64
      else if e.valid && e.members.contains fc then s.ret d 3#64
      else
        let e := if e.valid then e
          else { Group.empty with valid := true, m := m, off := o, size := z, timer := t, l := 0xffffffff#32, fills := e.fills }
        let x : Member := { fc := fc, tid := s.tid, comp := s.resolveNear p u (s.e 3), dec := (s.e 4).getLsbD 0, vf := s.me.vf }
        let s := s.setMems p g (s.mems p g ++ [x])
        (s.setGrp p g { e with j := e.j + 1, members := e.members ++ [fc] }).ret d 0#64

/-- GLEAVE (R184): of two member slots with its thread id, the older leaves (log 109). -/
def execGleave (d a : GReg) (s : State) : Out :=
  s.groupOp a fun s =>
    let p := s.me.part
    let g := (s.g a).toNat
    if 63 < g ∨ (s.grp p g).valid = false then s.ret d 7#64
    else match (s.mems p g).find? fun x => x.tid == s.tid with
      | none => s.ret d 5#64
      | some x => (s.depart p g x.fc).ret d 0#64

/-- GLOAD's operands within their limits (R182). -/
def State.gloadBad (s : State) (a : GReg) : Bool :=
  let g := (s.g a).toNat
  let e := s.grp s.me.part g
  decide (63 < g) || !e.valid || !canonical (s.e 0) || (s.e 0).toNat % 64 != 0 || untranslated (s.e 0) ||
  (s.e 1).toNat % 64 != 0 || (s.e 1).toNat == 0 || decide (e.size < (s.e 1).toNat)

/-- An ask that counts (R182): status 0, or 1 when it starts the fill. -/
def State.ask (s : State) (p g fc : Nat) (d : GReg) : State :=
  let e := s.grp p g
  let e1 := if e.p then e
    else { e with p := true, deadline := s.tsOf p + e.timer, source := s.e 0, len := (s.e 1).toNat, askVf := s.me.vf }
  let e1 := { e1 with asked := e1.asked ++ [fc], a := e1.a + 1 }
  let s := s.setGrp p g e1
  if e1.a = e1.m then (s.startFill p g false).ret d 1#64 else s.ret d 0#64

/-- GLOAD (R182). Of two member slots with its thread id, taken at two clusters, it acts on the older (log 109). -/
def execGload (d a b : GReg) (s : State) : Out :=
  s.groupOp a fun s =>
    if s.gloadBad a then s.ret d 7#64
    else
      let p := s.me.part
      let g := (s.g a).toNat
      let e := s.grp p g
      match (s.mems p g).find? fun x => x.tid == s.tid with
      | none => s.ret d 5#64
      | some x =>
        let n := ((s.g b).setWidth 32 - e.l).toNat
        if n = 0 then s.ret d 2#64
        else if n = 1 then (if e.asked.contains x.fc then s.ret d 6#64 else s.ask p g x.fc d)
        else if n ≤ 2 ^ 31 then s.ret d 4#64
        else s.ret d 3#64

/-- GROUP_TIMER_EXPIRY (R180, R182): the pending fill starts with the members that have asked, once the tick of its deadline is over:
the operations of that tick come first (log 83). -/
def execGroupTimerExpiry (p g : Nat) (s : State) : Out :=
  .next (s.groupTick p g)

/-- The bulkhead of a member's cluster (R409). -/
def Part.memberBulk (p : Part) (fc : Nat) : Nat := p.clOfFlat fc / 8

/-- A member's completion write (R183): made, held by a page request, or dropped and logged. -/
def State.completeMember (s : State) (p : Nat) (h : HeldComp) : State :=
  let m := h.m
  let b := (s.part p).memberBulk m.fc
  let ag : Agent := { part := p, vf := m.vf, bulk := b, unit := (s.part p).clOfFlat m.fc, deep := false, engine := true,
                      tid := m.tid, holder := .member p h.g m.fc }
  let held (s : State) : State := s.modPart p fun y => { y with heldComps := y.heldComps ++ [h] }
  match s.access ag (if m.dec then Acc.atomic 8 else Acc.store 8) m.comp with
  | (.ok pl, s) =>
    if m.dec = false then s.agentStore p m.vf pl (leBytes 8 h.value.toNat) false
    else match s.decAt p m.vf ag.holder pl true with
      | (.done, s) => s
      | (.held, s) => held s
      | (_, s) => s.vlogAppend b m.comp.toNat 4 5 h.g
  | (.fault _ _, s) => s.vlogAppend b m.comp.toNat 4 5 h.g
  | (_, s) => held s

/-- The held completion writes of a partition tried again (R183). -/
def State.retryComps (s : State) (p : Nat) : State :=
  let l := (s.part p).heldComps
  l.foldl (fun s h => s.completeMember p h) (s.modPart p fun y => { y with heldComps := [] })

/-- The places of a fill's blocks, from those of its pages (R183). -/
def Fill.blocks (f : Fill) (ps : List Place) : List Place :=
  (List.range (f.len / 64)).map fun i =>
    let a := f.source.toNat + 64 * i
    let j := a / 65536 - f.source.toNat / 65536
    let base := if j = 0 then f.source.toNat else a / 65536 * 65536
    (ps.getD j (.grain 0)).shift (a - base)

/-- The blocks of a fill pass the checks of their places in the step that reads them (R340, R352): whether all do, or one is refused;
none while one waits. -/
def State.fillAdmit (s : State) (g : Agent) : List Place → Option Bool × State
  | [] => (some true, s)
  | pl :: l => match s.checkPlace g (Acc.vload 64) pl with
    | (.ok _, s) => s.fillAdmit g l
    | (.fault _ _, s) => (some false, s)
    | (_, s) => (none, s)
/-- How the reads of a fill's blocks stand. -/
def State.fillReads (s : State) (p vf : Nat) (h : Holder) : List Place → LinkRead × State
  | [] => (.data, s)
  | pl :: l =>
    let (a, s) := s.linkRead p vf h pl 64
    let (b, s) := s.fillReads p vf h l
    (a.and b, s)

/-- The completion value of R183. -/
def Fill.word (f : Fill) (poisoned : Bool) : Word :=
  BitVec.ofNat 64 (f.seq.toNat + f.timed.toNat * 2 ^ 32 + f.bad.toNat * 2 ^ 33 + poisoned.toNat * 2 ^ 34 +
    f.asked % 512 * 2 ^ 48)

/-- Blocks written at rising offsets of a tarn (R183). -/
def State.fillWrite (s : State) (k : Nat) : List (List Byte × Bool) → State
  | [] => s
  | b :: l => (s.writeMem k b.1 b.2).fillWrite (k + 64) l

/-- A fill's data sent to every member of the map at this moment, then their completion words (R183). -/
def State.fillSend (s : State) (p g : Nat) (f : Fill) (bs : List (List Byte × Bool)) : State :=
  let w := f.word (bs.any fun b => b.2)
  (s.mems p g).foldl (fun s m =>
    let s := s.fillWrite (tarnKey ((s.part p).clOfFlat m.fc) f.off) bs
    s.completeMember p { g := g, m := m, value := w }) s

/-- GROUP_FILL_DATA (R183): the oldest fill of a group reads its source and is sent; a fill held by a page request tries
its translation again first. A source that its place's checks refuse, or that a remote package answers with an error response, cannot be
read. -/
def execGroupFillData (p g : Nat) (s : State) : Out :=
  let e := s.grp p g
  match e.fills with
  | [] => .next s
  | f :: rest =>
    let (f, s) := s.fillLocate p g f
    if f.bad then .next ((s.setGrp p g { e with fills := rest }).fillSend p g f [])
    else match f.places with
      | none => .next s
      | some ps =>
        let h : Holder := .group p g
        let keep (s : State) : State := s.setGrp p g { e with fills := f :: rest }
        let fail (s : State) : State := ((s.linkDone f.vf h).setGrp p g { e with fills := rest }).fillSend p g { f with bad := true } []
        match s.fillAdmit (s.fillAgent p g f) (f.blocks ps) with
        | (none, s) => .next (keep s)
        | (some false, s) => .next (fail s)
        | (some true, s) =>
        let (r, s) := s.fillReads p f.vf h (f.blocks ps)
        if r = .held then .next (keep s)
        else if r = .refused then .next (fail s)
        else
          let bs := (f.blocks ps).map fun pl => (s.readPlace p pl 64, s.readPoison p f.vf h pl 64)
          .next (((s.linkDone f.vf h).setGrp p g { e with fills := rest }).fillSend p g f bs)

end Sys2Proof.Machine
end

