-- ==== Sys2Proof/Machine/Watch.lean ====
section
/-! DEFINITION. Watches: arming and removing (R156-R158, R256-R259), and the instructions WATCH, UNWATCH and the events of
wakes (R260). -/

namespace Sys2Proof.Machine

/-- The directory entries of a home that share an entry's set and hold an inline watcher (R156; the set is log 12). -/
def State.inlineWays (s : State) (b d : Nat) : Nat :=
  ((s.bulk b).dir.filter fun x => !x.2.inl.isEmpty && s.sameSet b x.1 d).length
/-- A directory entry has an inline slot for a watcher of the line (R156), in a way of the L2 (R141): tarn lines have no directory
entry. -/
def State.inlineRoom (s : State) (b line : Nat) : Bool :=
  let d := dirKey (64 * line)
  let l := ((s.bulk b).dirOf d).inl
  !isTarnKey (64 * line) && decide (l.length < 2) && (!l.isEmpty || decide (s.inlineWays b d < 12)) &&
    (s.l2Room b d || !(s.l2Victims b d).isEmpty)
/-- A watcher recorded at a home, inline or in the table, if there is room (R156, R243). -/
def State.recordWatcher (s : State) (b line : Nat) (w : Watcher) : Option State :=
  if s.inlineRoom b line then
    some ((s.l2Make b (dirKey (64 * line))).modDir b (dirKey (64 * line)) fun d => { d with inl := d.inl ++ [(line % 8, w)] })
  else if (s.bulk b).watchTab.length < 16384 then some (s.modBulk b fun y => { y with watchTab := y.watchTab ++ [(line, w)] })
  else none

/-- The line a place is on and its home, if it can be watched (R258). -/
def State.watchLine (s : State) (p : Nat) : Place → Option (Nat × Nat)
  | .mem k => some (k / 64, if isHostKey k then (s.part p).proxyHome (k - 2 ^ 64) else keyBulk k)
  | _ => none

/-- The watch numbers of a thread, and the lowest free one. -/
def State.watchesOf (s : State) (t : W32) : List WatchDesc := (s.core (tidCore t)).watches.filter fun d => d.tid == t
def lowestFree (l : List WatchDesc) : Nat := ((List.range 4).find? fun n => !(l.any fun d => d.num == n)).getD 0

/-- A coarse watch recorded at a home (R158). -/
def State.recordCoarse (s : State) (b line : Nat) : State :=
  s.modBulk b fun x =>
    { x with coarse := fset false x.coarse (coarseIdx (s.coarseAddr b (64 * line))) true, coarseCount := x.coarseCount + 1 }

/-- Watch n of a thread armed on a line (R258): the home's record and the descriptor; whether it is coarse. -/
def State.armAt (s : State) (t : W32) (p n line home : Nat) : Bool × State :=
  let (coarse, s) := match s.recordWatcher home line (.thread t n) with
    | some s => (false, s)
    | none => (true, s.recordCoarse home line)
  let s := s.holdLine p line
  let d : WatchDesc := { tid := t, num := n, line := line, coarse := coarse, home := home }
  let s := s.modCore (tidCore t) fun c => { c with watches := c.watches ++ [d] }
  (coarse, s.modRec t fun r => { r with pending := r.pending &&& ~~~(BitVec.ofNat 4 (2 ^ n)) })

/-- The status of a WATCH at a place, and its effect (R258). -/
def State.arm (s : State) (t : W32) (p : Nat) (pl : Place) : Nat × State :=
  match s.watchLine p pl with
  | none => (0x82, s)
  | some (line, home) =>
    let l := s.watchesOf t
    match l.find? fun d => d.line == line with
    | some d => (0x10 + d.num, s)
    | none =>
      if 4 ≤ l.length then (0x80, s)
      else if 1024 ≤ (s.core (tidCore t)).watches.length then (0x81, s)
      else
        let n := lowestFree l
        let (coarse, s) := s.armAt t p n line home
        (if coarse then 0x20 + n else n, s)

/-- A line that a WATCH arms is in transition at its home, or earlier requests for it wait there (R151), or is a host line that its proxy home does not hold yet (R157). -/
def State.watchBusy (s : State) (p : Nat) : Place → Bool
  | .mem k => (isDevKey k && (s.homeBusy (k / 64 * 64) 64 ||
      s.homeAhead (keyBulk k) (s.unitsLo (k / 64 * 64)) (s.unitsHi (k / 64 * 64) 64) (s.homeWho (.ctx s.cur.1 s.cur.2)))) || (isHostKey k && s.cxl p && s.proxyGet p (hostLineOf k) == .i)
  | _ => false
/-- A WATCH waits in the home queue (R151), or its proxy home requests the host line (R157). -/
def State.watchAsk (s : State) (p : Nat) : Place → State
  | .mem k =>
    if isHostKey k then s.holdLine p (k / 64)
    else s.homeJoin (keyBulk k) (s.unitsLo (k / 64 * 64)) (s.unitsHi (k / 64 * 64) 64) (s.homeWho (.ctx s.cur.1 s.cur.2))
  | _ => s
/-- A WATCH that goes on leaves the queue. -/
def State.watchPass (s : State) : Place → State
  | .mem k => if isDevKey k then s.homePass (keyBulk k) (s.homeWho (.ctx s.cur.1 s.cur.2)) else s
  | _ => s
/-- WATCH (R258). -/
def execWatch (d a : GReg) (s : State) : Out :=
  match s.locate s.ag Acc.probe (s.g a) with
  | (.ok pl, s) =>
    if s.watchBusy s.me.part pl then .next ((s.watchAsk s.me.part pl).hold false (s.g a))
    else
      let (x, s) := (s.watchPass pl).arm s.tid s.me.part pl
      .next (s.ret d (BitVec.ofNat 64 x))
  | (.fault c e, s) => .next (s.fault c (s.g a) e)
  | (.page, s) => .next (s.hold true (s.g a))
  | (_, s) => .next (s.hold false (s.g a))

/-- One watch removed (R259): the descriptor, the pending bit, the home's record or the coarse count. -/
def State.disarm (s : State) (d : WatchDesc) : State :=
  let s := s.modCore (tidCore d.tid) fun c => { c with watches := c.watches.filter fun x => x ≠ d }
  let s := s.modRec d.tid fun r => { r with pending := r.pending &&& ~~~(BitVec.ofNat 4 (2 ^ d.num)) }
  if d.coarse then
    s.modBulk d.home fun b =>
      { b with coarseCount := b.coarseCount - 1, coarse := if b.coarseCount ≤ 1 then [] else b.coarse }
  else s.dropWatcher d.home d.line (.thread d.tid d.num)

/-- Every watch of a thread removed (R259). -/
def State.disarmAll (s : State) (t : W32) : State := (s.watchesOf t).foldl (fun s d => s.disarm d) s

/-- UNWATCH (R259): no page request and no fault. -/
def execUnwatch (d a : GReg) (s : State) : Out :=
  let ag := { s.ag with holder := .unwatch s.cur.1 s.cur.2 }
  match s.locate ag Acc.probe (s.g a) with
  | (.ok pl, s) =>
    match s.watchLine s.me.part pl with
    | none => .next (s.ret d 1#64)
    | some (line, _) =>
      match (s.watchesOf s.tid).find? fun x => x.line == line with
      | none => .next (s.ret d 1#64)
      | some x => .next ((s.disarm x).ret d 0#64)
  | (.ats, s) => .next (s.hold false (s.g a))
  | (.bi, s) => .next (s.hold false (s.g a))
  | (_, s) => .next (s.ret d 1#64)

/-- UNWATCH.all (R259). -/
def execUnwatchAll (d : GReg) (s : State) : Out :=
  .next ((s.disarmAll s.tid).ret d (if (s.watchesOf s.tid).isEmpty then 1#64 else 0#64))

/-- A watch wakes its thread with no bit of the mask set: a spurious return (R34, R262, log 108). -/
def State.spurious (s : State) (t : W32) : State :=
  match s.findRec t with
  | some r => if r.wakeable && !(s.watchesOf t).isEmpty then s.makeReady t else s
  | none => s
/-- WATCH_WAKE (R260): a wake applied to a thread's record. A write applies its wakes itself (log 4); one that comes by
itself is a spurious wake (R34, R259): of watch n, or, where n is 4, one that names none. -/
def execWatchWake (tid : W32) (n : Nat) (s : State) : Out :=
  .next (if n < 4 then s.hit tid n else if n = 4 then s.spurious tid else s)
/-- COARSE_WAKE (R158, R260). -/
def execCoarseWake (bh : Nat) (s : State) : Out := .next (s.coarseHit bh)

end Sys2Proof.Machine
end

