-- ==== Sys2Proof/Machine/Lifecycle.lean ====
section
/-! DEFINITION. The life of a thread: spawning (R10, R28), counting toward a launch (R29), ending (R266, R313), binding
(R18, R22, R23, R251, R262), suspension points taking effect (R18, R19). -/

namespace Sys2Proof.Machine

/-- The generations that live threads of a slot number hold (R10). -/
def State.liveGens (s : State) (core slot : Nat) : List Byte :=
  let r := s.slotRec core slot
  (if r.state = .free then [] else [tidGen r.tid]) ++
  ((s.bulk (core / 32)).shallows.filter fun x => tidCore x.tid == core && tidSlot x.tid == slot).map fun x => tidGen x.tid
/-- The first generation from g that no live thread holds. -/
def freeGen (live : List Byte) (g : Byte) : Nat → Byte
  | 0 => g
  | n + 1 => if live.contains g then freeGen live (g + 1#8) n else g
/-- The generation of the next thread of a slot number, and the counter advanced (R10). -/
def State.takeGen (s : State) (core slot : Nat) : Byte × State :=
  let g := freeGen (s.liveGens core slot) (fget 0#8 (s.core core).nextGen slot) 256
  (g, s.modCore core fun c => { c with nextGen := fput c.nextGen slot (g + 1#8) })

/-- The lowest-numbered free slot of a core (R28); slot 0 is the steward's (R304). -/
def State.freeSlot (s : State) (core : Nat) : Option Nat :=
  ((List.range 255).map (· + 1)).find? fun i => (s.slotRec core i).state == .free
/-- The slot number among 1-255 with the fewest live threads, the lowest on a tie (R28). -/
def State.leastSlot (s : State) (core : Nat) : Nat :=
  ((List.range 254).map (· + 2)).foldl (fun b i =>
    if (s.liveGens core i).length < (s.liveGens core b).length then i else b) 1
/-- Room in the shallows of a bulkhead: 8,192 records (R28). -/
def State.shallowRoom (s : State) (b : Nat) : Bool := decide ((s.bulk b).shallows.length < 8192)

/-- A record spawned on a core, in a free slot or in the shallows, if there is room (R28, R265). -/
def State.spawnRecord (s : State) (core : Nat) (r : Rec) : Option (W32 × State) :=
  match s.freeSlot core with
  | some slot =>
    let (g, s) := s.takeGen core slot
    let t := mkTid core slot g
    some (t, (s.setSlot core slot
      { r with tid := t, state := .ready, level := r.prio.toNat, since := s.ts }).joinQueue t)
  | none =>
    if s.shallowRoom (core / 32) then
      let slot := s.leastSlot core
      let (g, s) := s.takeGen core slot
      let t := mkTid core slot g
      let r := { r with tid := t, state := .spilled, spillKind := 0#2, level := r.prio.toNat, since := s.ts }
      some (t, (s.modBulk (core / 32) fun b => { b with shallows := b.shallows ++ [r] }).trySwap core slot)
    else none

/-- The counts of launches of a cluster, one changed (R29). -/
def bumpLaunch (f : Nat → Nat) (id : Nat) : List (Nat × Nat) → List (Nat × Nat)
  | [] => []
  | x :: l => if x.1 = id then (id, f x.2) :: l else x :: bumpLaunch f id l

/-- A thread of a launch has ended or been reaped (R29). -/
def State.countEnd (s : State) (r : Rec) : State :=
  match r.launchId with
  | none => s
  | some id => s.modUnit (tidUnit r.tid) fun u => { u with launches := bumpLaunch (· - 1) id u.launches }

/-- A thread's send-buffer entries are discarded (R313). -/
def State.dropSends (s : State) (t : W32) : State := s.keepSends fun e => e.msg.sender != t

/-- The entry that holds a blocked SEND or SENDN of a thread (R270, R273), in a core or saved with its VF. -/
def State.blockedSend (s : State) (t : W32) : Option SendEntry :=
  ((s.cores.flatMap fun c => c.2.sendBuf) ++
    s.parts.flatMap fun p => p.2.savedVfs.flatMap fun v => v.sends.map fun e => e.2).find? (SendEntry.blocks t)
/-- A blocked SEND or SENDN ends: its thread becomes ready and its status is written at the resume (R271, R273). -/
def State.resumeSend (s : State) (t : W32) (d : Nat) (x : Word) : State :=
  (s.modRec t fun r => { r with sendwait := false, result := some (d, x) }).makeReady t

/-- A live record's place is freed: its slot, which is refilled (R253), or its shallows record. -/
def State.freeRecord (s : State) (t : W32) : State :=
  let s := s.leaveQueues t
  if s.resident t then (s.setSlot (tidCore t) (tidSlot t) Rec.empty).refill (tidCore t) (tidSlot t)
  else s.modBulk (tidBulk t) fun b => { b with shallows := b.shallows.filter fun r => r.tid != t }

/-- END takes effect, in one step at the home core (R266). -/
def State.endThread (s : State) (k c : Nat) : State :=
  let t := (s.ctx k c).tid
  let r := s.recOf t
  let s := (s.disarmAll t).departAll r.part t
  let s := s.countEnd r
  let s := if r.autoreap then s.freeRecord t
    else s.modRec t fun y => { (y.keep (s.ctx k c).pc (s.ctx k c).regs) with state := .retired, launchId := none }
  s.release k c

/-- The record of a suspended thread: PC, g1-g4, what its next bind delivers (R18, R262). -/
def Rec.suspended (r : Rec) (x : Ctx) (deliver : Bool) (result : Option Nat) (status : Word) : Rec :=
  { r.keep x.pc x.regs with
    deliver := deliver, result := result.map fun d => (d, status), wokeDeadline := false, wokeWake := false }

/-- SLEEP's end (R261): ready at once when a watch bit is pending or the deadline has come, else sleeping. -/
def State.sleepRecord (s : State) (t : W32) (deadline : Option Nat) : State :=
  let r := s.recOf t
  let due := match deadline with | some d => decide (d ≤ s.tsOf r.part) | none => false
  if due || r.pending != 0#4 then (s.modRec t fun r => { r with wokeDeadline := due }).makeReady t
  else s.modRec t fun r => { r with state := .sleeping, deadline := deadline }

/-- A suspension point takes effect (R18, R19): the record is written and the context released. -/
def State.suspDone (s : State) (k c : Nat) (u : Susp) : State :=
  let x := s.ctx k c
  let t := x.tid
  match u with
  | .endT => s.endThread k c
  | .sleep d => ((s.modRec t fun r => r.suspended x true none 0#64).sleepRecord t d).release k c
  | .svc dest n => ((s.modRec t fun r => r.suspended x true (some dest) (BitVec.ofNat 64 n)).sleepRecord t none).release k c
  | .yield => ((s.modRec t fun r => r.suspended x false none 0#64).makeReady t).release k c
  | .migrate n =>
    let s := (s.modRec t fun r => { r.suspended x false none 0#64 with deep := n == 8 }).makeReady t
    let s := if n = 8 then s else
      ((s.leaveQueues t).modRec t fun r => { r with migrate := some n }).joinQueue t
    s.release k c
  | .send dest =>
    let s := (s.modRec t fun r =>
      { r.suspended x true (some dest) 0#64 with state := .sleeping, sendwait := true, deadline := none }).release k c
    if (s.blockedSend t).isSome then s else s.resumeSend t dest 0#64

/-- A suspension point of a context may take effect: no producer is in flight (R19), and its thread's writes are performed at
part scope (R194; log 79). -/
def State.suspReady (s : State) (k c : Nat) : Bool :=
  let x := s.ctx k c
  x.inflight.isEmpty && !s.writesOut (s.recOf x.tid).part .part
/-- A suspension-point instruction of n bytes retires (R18, R19): it takes effect at once, or as soon as it may. -/
def State.suspend (s : State) (u : Susp) (n : Nat) : State :=
  let k := s.cur.1
  let c := s.cur.2
  let s := (s.adv n).count k 9 (some c) 1
  if s.suspReady k c then s.suspDone k c u
  else s.modCtx k c fun x => { x with susp := some u }

/-- SUSPENSION_COMPLETE (R19): a suspension point whose producers have all ended takes effect. -/
def execSuspensionComplete (core ctx : Nat) (s : State) : Out :=
  let x := s.ctx core ctx
  match x.susp with
  | some u => if s.suspReady core ctx && x.stop.isNone then .next (s.suspDone core ctx u) else .next s
  | none => .next s

/-- The wake mask of a record (R262). -/
def Rec.wakeMask (r : Rec) : Word :=
  BitVec.ofNat 64 (r.pending.toNat + 16 * r.wokeDeadline.toNat + 32 * r.wokeWake.toNat + 64 * r.wokeCoarse.toNat)
/-- The registers with which a record binds (R18, R262, R309). -/
def Rec.bindRegs (r : Rec) : Regs :=
  let x := match r.image with | some i => i | none => r.resumeRegs
  let x := if r.deliver then x.setG 5 r.wakeMask else x
  match r.result with | some (d, w) => x.setG d w | none => x
/-- The record once bound (R262): a delivered mask clears the pending bits. -/
def Rec.bind (r : Rec) (k c : Nat) : Rec :=
  let r := if r.deliver then
    { r with pending := 0#4, wokeDeadline := false, wokeWake := false, wokeCoarse := false, deliver := false } else r
  { r with
    state := .bound, place := some (k, c), migrate := none, image := none, result := none, level := r.prio.toNat, fence := none }

/-- A ready record binds to a context. -/
def State.bindTo (s : State) (k c : Nat) (t : W32) : State :=
  let r := s.recOf t
  let s := (s.leaveQueues t).modRec t fun r => r.bind k c
  let s := s.modCtx k c fun x => { Ctx.empty with bound := true, tid := t, pc := canon r.pc, regs := r.bindRegs, fence := r.fence, last := x.last }
  s.count k 10 (some c) 1

/-- The thread ids of a FIFO in order. -/
def Clus.level (u : Clus) (l : Nat) : List W32 := (fget [] u.fifo l).map fun x => x.1
/-- The head of a FIFO (R251): its first record whose VF is running. -/
def State.fifoHead (s : State) (u l : Nat) : Option W32 := ((s.unit u).level l).find? fun t => s.recRuns (s.recOf t)
/-- The highest level with a head, and that head. -/
def State.bestHead (s : State) (u : Nat) : Option (Nat × W32) :=
  [3, 2, 1, 0].findSome? fun l => (s.fifoHead u l).map fun t => (l, t)
/-- A cluster's FIFOs hold a record at a level or above, whatever its VF (R23, R264), that f admits. -/
def State.holdsAt (s : State) (u l : Nat) (f : Rec → Bool) : Bool :=
  (s.unit u).fifo.any fun q => decide (l ≤ q.1) && q.2.any fun e => f (s.recOf e.1)
/-- The highest level of a FIFO whose head roams, and that head (R23, R251). -/
def State.bestRoam (s : State) (u : Nat) : Option (Nat × W32) :=
  [3, 2, 1, 0].findSome? fun l => match s.fifoHead u l with
    | some t => if (s.recOf t).roamQ then some (l, t) else none
    | none => none
/-- The contexts 1-15 of a barrel core that are free. -/
def State.freeCtxs (s : State) (k : Nat) : Nat := ((List.range 15).filter fun i => !(s.ctx k (i + 1)).bound).length
def State.clusterFree (s : State) (u : Nat) : Nat := ((List.range 4).map fun i => s.freeCtxs (32 * (u / 8) + 4 * (u % 8) + i)).foldl max 0
/-- The core of a cluster that takes the next entry: the most free contexts, then the lowest number (R22). -/
def State.takesNext (s : State) (k : Nat) : Bool :=
  let base := k / 4 * 4
  (List.range 4).all fun i =>
    decide (s.freeCtxs (base + i) < s.freeCtxs k) || (decide (s.freeCtxs (base + i) = s.freeCtxs k) && decide (k ≤ base + i))
/-- The clusters that may bind a roaming record of cluster u at level l: their own queues hold none as high (R23). -/
def State.mayRoam (s : State) (u l : Nat) : Bool :=
  decide (0 < s.clusterFree u) && !(s.unit u).gated && !s.holdsAt u l fun _ => true
/-- What a free context 1-15 of a barrel core binds (R22, R23, R251). -/
def State.barrelPick (s : State) (k : Nat) : Option W32 :=
  let u := coreUnit k
  let b := k / 32
  let own := s.bestHead u
  let others := (List.range 6).filterMap fun c =>
    let v := 8 * b + c
    if v = u then none
    else match s.bestRoam v with
      | none => none
      | some (l, t) =>
        let ahead := decide (0 < s.clusterFree v) || (List.range 6).any fun w => decide (w < u % 8) && w != c && s.mayRoam (8 * b + w) l
        if s.mayRoam u l && !ahead then some (l, t) else none
  let best := others.foldl (fun x y => match x with
    | none => some y
    | some z => if z.1 < y.1 then some y else some z) (none : Option (Nat × W32))
  match own, best with
  | some (_, t), none => some t
  | none, some (_, t) => some t
  | some (l, t), some (m, t') => if l < m then some t' else some t
  | none, none => none

/-- BIND (R21-R23, R251, R30): a free context takes the record it may serve; none of a VF that a switch has reached (R285). -/
def execBind (core ctx : Nat) (s : State) : Out :=
  if (s.ctx core ctx).bound || (s.partOf (core / 32)).isNone then .next s
  else if isDeep core then
    if ctx < 4 then match s.bestHead (coreUnit core) with
      | some (_, t) => .next (s.bindTo core ctx t)
      | none => .next s
    else .next s
  else if 24 ≤ core % 32 then .next s
  else if ctx = 0 then
    let r := s.slotRec core 0
    if r.state = .ready ∧ (s.unit (coreUnit core)).gated = false then .next (s.bindTo core 0 r.tid) else .next s
  else if ctx < 16 && s.takesNext core && !(s.unit (coreUnit core)).gated then
    match s.barrelPick core with
    | some t => .next (if s.atSwitch (s.recOf t).part (s.recOf t).vf then s else s.bindTo core ctx t)
    | none => .next s
  else .next s

/-- PRIORITY_PROMOTION (R250, R33): a record that has waited 4,096 ticks below level 3 goes to the tail of the next level. -/
def execPriorityPromotion (tid : W32) (s : State) : Out :=
  match s.findRec tid with
  | none => .next s
  | some r =>
    let waits := r.state == .ready || (r.state == .spilled && r.spillKind == 0#2)
    if waits && s.recRuns r && decide (r.level < 3) && decide (r.since + 4096 ≤ s.ts) then
      let s := (s.leaveQueues tid).modRec tid fun r => { r with level := r.level + 1, since := s.ts }
      if r.state = .ready then .next (s.joinQueue tid) else .next (s.trySwap (tidCore tid) (tidSlot tid))
    else .next s

/-- SLEEP_DEADLINE (R261): a sleeping record is made ready at its deadline. -/
def execSleepDeadline (tid : W32) (s : State) : Out :=
  match s.findRec tid with
  | none => .next s
  | some r =>
    match r.deadline with
    | none => .next s
    | some d =>
      if r.wakeable && decide (d ≤ s.tsOf r.part) then
        .next ((s.modRec tid fun r => { r with wokeDeadline := true }).makeReady tid)
      else .next s

end Sys2Proof.Machine
end

