-- ==== Sys2Proof/Machine/Authority.lean ====
section
/-! DEFINITION. Authority tables (R299-R304) and reading a block of operands (R160). -/

namespace Sys2Proof.Machine

/-- Entry e of table n of a partition (R299). -/
def State.authEntry (s : State) (p n e : Nat) : BitVec 128 := fget 0#128 (s.part p).auth (16 * n + e)
/-- The entries of a table. -/
def State.authTable (s : State) (p n : Nat) : List (BitVec 128) := (List.range 16).map (s.authEntry p n)

/-- Fields of an entry (R299). -/
def authKind (x : BitVec 128) : Nat := bitsOf x 0 3
def authBulk (x : BitVec 128) : Nat := bitsOf x 8 6
def authCluster (x : BitVec 128) : Nat := bitsOf x 14 3
def authCore (x : BitVec 128) : Nat := bitsOf x 17 2
def authLo (x : BitVec 128) : Nat := bitsOf x 24 8
def authHi (x : BitVec 128) : Nat := bitsOf x 32 8
def authRights (x : BitVec 128) : Nat := bitsOf x 64 8
def authChild (x : BitVec 128) : Nat := bitsOf x 80 10
/-- An entry from its parts. -/
def mkAuth (kind rights child : Nat) : BitVec 128 := BitVec.ofNat 128 (kind + rights * 2 ^ 64 + child * 2 ^ 80)

/-- Bits of the rights (R299). -/
def rSTOP : Nat := 0
def rSTART : Nat := 1
def rREAD : Nat := 2
def rWRITE : Nat := 3
def rSPAWN : Nat := 4
def rREAP : Nat := 5
def rGRANT : Nat := 6
def rPREEMPT : Nat := 7

/-- An entry grants a right. -/
def grants (x : BitVec 128) (right : Nat) : Bool := (authRights x).testBit right
/-- An entry covers slots of a home core for a caller (R300); `slot` picks one, none asks for some slot. -/
def covers (x : BitVec 128) (caller : W32) (core : Nat) (slot : Option Nat) : Bool :=
  let b := core / 32
  let l := core % 32 / 4
  match authKind x with
  | 1 => authBulk x == b && authCluster x == l && authCore x == core % 4 &&
      (match slot with
       | some n => decide (authLo x ≤ n) && decide (n ≤ authHi x)
       | none => decide (authLo x ≤ authHi x))
  | 2 => authBulk x == b && authCluster x == l
  | 3 => authBulk x == b
  | 4 => true
  | 5 => tidCore caller == core
  | 6 => tidUnit caller == coreUnit core
  | _ => false
/-- An entry covers a bulkhead (R300). -/
def coversBulk (x : BitVec 128) (b : Nat) : Bool := (authKind x == 3 && authBulk x == b) || authKind x == 4

/-- The current thread's table. -/
def State.myTable (s : State) : List (BitVec 128) := s.authTable s.me.part s.me.table.toNat
/-- The caller holds a right over a thread id (R300, R302). -/
def State.holds (s : State) (right : Nat) (t : W32) : Bool :=
  (s.part s.me.part).bulks.contains (tidBulk t) &&
  s.myTable.any fun x => grants x right && covers x s.tid (tidCore t) (some (tidSlot t))
/-- The caller holds a right in a KIND 4 entry. -/
def State.holdsAll (s : State) (right : Nat) : Bool := s.myTable.any fun x => grants x right && authKind x == 4
/-- Fault 0x51 (R302). -/
def State.noAuthority (s : State) (a : Word) (right f4 : Nat) : State :=
  s.fault 0x51 a (BitVec.ofNat 64 (right + f4 * 256))

/-- A block of n bytes read by an instruction as one access under R160, with its faults; over a link the instruction waits for
the answers (log 7), and an error response is 0x16 (log 31). -/
def State.readBlock (s : State) (a : Acc) (va : Word) (k : List Byte → State → State) : State :=
  s.threadAccess a va fun pl s =>
    let h : Holder := .ctx s.cur.1 s.cur.2
    let (l, s) := s.linkRead s.me.part s.me.vf h pl a.n
    if l = .held then s.hold false va
    else if l = .refused then (s.linkDone s.me.vf h).fault 0x16 va 0#64
    else if l == .lost || s.placePoison pl a.n then (s.linkDone s.me.vf h).fault 0x61 va 0#64
    else k (s.readPlace s.me.part pl a.n) (s.linkDone s.me.vf h)

/-- The n-byte little-endian field at an offset of a block. -/
def fieldAt (bs : List Byte) (off n : Nat) : Nat := leNat ((bs.drop off).take n)
def wordAt (bs : List Byte) (off : Nat) : Word := BitVec.ofNat 64 (fieldAt bs off 8)

end Sys2Proof.Machine
end

