-- ==== Sys2Proof/Machine/Threads.lean ====
section
/-! DEFINITION. Instructions that create, end, move, put to sleep and wake threads (R257-R267). -/

namespace Sys2Proof.Machine

/-- The current thread is a steward (R21, R304). -/
def State.isSteward (s : State) : Bool := tidSlot s.tid == 0

/-- The home core a spawn block chooses (R265). -/
def State.spawnCore (s : State) (bs : List Byte) : Option Nat :=
  let n := fieldAt bs 0x1a 2
  let p := s.part s.me.part
  if n = 0xffff then some (tidCore s.tid) else if n < 24 * p.n then some (p.coreOfFlat n) else none

/-- The authority for a SPAWN (R303). -/
def State.spawnAllowed (s : State) (core table : Nat) : Bool :=
  let l := s.myTable.filter fun x => grants x rSPAWN && covers x s.tid core none
  !l.isEmpty && (table == s.me.table.toNat || l.any fun x => authChild x == table)

/-- A PC lies in a registered range under a VF's PASID (R38, R337). -/
def State.inRange (s : State) (p vf : Nat) (pc : Word) : Bool := ((s.part p).rangeOf (s.pasid p vf) pc.toNat).isSome

/-- The limits of a spawn block after its home core (R265). -/
def State.spawnBad (s : State) (bs : List Byte) : Bool :=
  let pc := wordAt bs 0
  let w := wordAt bs 0x18
  pc.getLsbD 0 || !s.inRange s.me.part s.me.vf pc || fieldAt bs 8 8 % (if w.getLsbD 13 then 4096 else 64) != 0 ||
  fieldAt bs 0x10 8 % 64 != 0 || w.getLsbD 15 || bitsOf w 32 32 != 0

/-- The record a spawn block describes (R265). -/
def State.spawnRec (s : State) (bs : List Byte) : Rec :=
  let w := wordAt bs 0x18
  { Rec.empty with
    roam := w.getLsbD 12, prio := BitVec.ofNat 2 (bitsOf w 10 2), pc := wordAt bs 0, table := BitVec.ofNat 10 (bitsOf w 0 10),
    save := w.getLsbD 13, autoreap := w.getLsbD 14, faultLine := wordAt bs 8, inbox := wordAt bs 0x10,
    g1 := wordAt bs 0x20, g2 := wordAt bs 0x28, g3 := wordAt bs 0x30, g4 := wordAt bs 0x38, vf := s.me.vf,
    part := s.me.part, weight := 1 }

/-- SPAWN (R265, R303). -/
def execSpawn (d a : GReg) (s : State) : Out :=
  .next (s.readBlock (Acc.load 64) (s.g a) fun bs s =>
    match s.spawnCore bs with
    | none => s.ret d 0x8000000000000002#64
    | some core =>
      if s.spawnAllowed core (bitsOf (wordAt bs 0x18) 0 10) = false then s.noAuthority (s.g a) rSPAWN 2
      else if s.spawnBad bs then s.ret d 0x8000000000000002#64
      else match s.spawnRecord core (s.spawnRec bs) with
        | none => s.ret d 0x8000000000000001#64
        | some (t, s) => s.ret d (t.setWidth 64))

/-- MIGRATE (R267): a steward stops with 0x07, another target with 0x0c. -/
def execMigrate (a : GReg) (s : State) : Out :=
  let n := (s.g a).toNat
  if s.isSteward then .next (s.fault 0x07 0#64 0#64)
  else if n < 6 ∨ n = 8 then .next (s.suspend (.migrate n) 4)
  else .next (s.fault 0x0c 0#64 (s.g a))

/-- WAKE (R263). -/
def execWake (d a : GReg) (s : State) : Out :=
  let t : W32 := (s.g a).setWidth 32
  if (s.part s.me.part).bulks.contains (tidBulk t) = false then .next (s.ret d 3#64)
  else match s.findRec t with
    | none => .next (s.ret d 2#64)
    | some r =>
      if r.wakeable then .next (((s.modRec t fun r => { r with wokeWake := true }).makeReady t).ret d 0#64)
      else .next (s.ret d 1#64)

/-- SLEEP (R261). -/
def execSleep (s : State) : Out := .next (s.suspend (.sleep none) 2)
/-- SLEEP.T (R261). -/
def execSleepT (a : GReg) (s : State) : Out := .next (s.suspend (.sleep (some (s.g a).toNat)) 4)

/-- The FIFOs a context serves hold a record at a level or above (R264). -/
def State.queued (s : State) (k lvl : Nat) : Bool :=
  let u := coreUnit k
  (s.holdsAt u lvl fun _ => true) || (!isDeep k && (List.range 6).any fun c =>
    let v := 8 * (k / 32) + c
    v != u && s.holdsAt v lvl fun r => r.roamQ)

/-- YIELD (R264). -/
def execYield (s : State) : Out :=
  if !s.isSteward && s.queued s.cur.1 s.me.prio.toNat then .next (s.suspend .yield 2) else .next (s.adv 2)

/-- END (R266). -/
def execEndThread (s : State) : Out :=
  if s.isSteward then .next (s.fault 0x07 0#64 0#64) else .next (s.suspend .endT 2)

end Sys2Proof.Machine
end

