-- ==== Sys2Proof/Machine/Service.lean ====
section
/-! DEFINITION. The service queue (R293-R298): SVC, and the notices of VF resets. -/

namespace Sys2Proof.Machine

/-- Key of a DPA field of a partition's descriptor (R324). -/
def State.areaKey (s : State) (p off : Nat) : Nat := (s.part p).dpaKey (s.desc p off).toNat

/-- The service descriptor (R293). -/
structure SvcDesc where
  base : Nat
  k : Nat
  head : Nat
  tail : Nat
  seq : Nat
  /-- reserved bits, the size or the ring's place break its layout -/
  bad : Bool
  deriving DecidableEq, Repr

/-- Its contents; SBASE is a DPA (log 26). -/
def State.svcDesc (s : State) (p : Nat) : SvcDesc :=
  let k := s.areaKey p 0x78
  let m := s.mem
  let base := m.num k 8
  let w := m.num (k + 8) 8
  let sk := w % 16
  { base := base, k := sk, head := m.num (k + 0x10) 4, tail := m.num (k + 0x18) 4, seq := m.num (k + 0x20) 8
    bad := w / 16 != 0 || decide (12 < sk) || base % 64 != 0 || !(s.part p).dpaIn base (64 * 2 ^ sk) ||
      m.num (k + 0x14) 4 != 0 || m.num (k + 0x1c) 4 != 0 || m.num (k + 0x28) 24 != 0 }
/-- Entries in the ring. -/
def SvcDesc.used (d : SvcDesc) : Nat := (d.head + 2 ^ 32 - d.tail) % 2 ^ 32
/-- No request fits. -/
def SvcDesc.full (d : SvcDesc) : Bool := decide (2 ^ d.k ≤ d.used)
/-- The key of ring entry i. -/
def State.svcEntry (s : State) (p : Nat) (d : SvcDesc) (i : Nat) : Nat := (s.part p).dpaKey (d.base + 64 * (i % 2 ^ d.k))

/-- A request record (R293). -/
def svcRecord (service vf caller : Nat) (reply : Word) (seq ts : Nat) (args : List Word) : List Byte :=
  leBytes 8 (service % 2 ^ 16 + vf % 256 * 2 ^ 16 + caller % 2 ^ 32 * 2 ^ 32) ++ leBytes 8 reply.toNat ++ leBytes 8 seq ++
  leBytes 8 ts ++ leBytes 8 (args.getD 0 0#64).toNat ++ leBytes 8 (args.getD 1 0#64).toNat ++
  leBytes 8 (args.getD 2 0#64).toNat ++ leBytes 8 0

/-- A record appended to the ring, one step at the descriptor's home (R294). -/
def State.svcAppend (s : State) (p service vf caller : Nat) (reply : Word) (args : List Word) : State :=
  let d := s.svcDesc p
  let k := s.areaKey p 0x78
  let put (s : State) (k : Nat) (bs : List Byte) : State := s.agentStore p vf (.mem k) bs false
  let s := put s (s.svcEntry p d d.head) (svcRecord service vf caller reply d.seq (s.tsOf p) args)
  let s := put s (k + 0x20) (leBytes 8 ((d.seq + 1) % 2 ^ 64))
  put s (k + 0x10) (leBytes 4 ((d.head + 1) % 2 ^ 32))

/-- Notices due are appended, as many as the ring has room for (R297, R298). -/
def State.flushNotices (s : State) (p : Nat) : State :=
  (s.part p).notices.foldl (fun s n =>
    let d := s.svcDesc p
    if d.bad || d.full then s
    else (s.svcAppend p n.1 n.2 0 0#64 []).modPart p fun x => { x with notices := x.notices.drop 1 }) s
/-- A notice (R297, R298). -/
def State.notice (s : State) (p service vf : Nat) : State :=
  (s.modPart p fun x => { x with notices := x.notices ++ [(service, vf)] }).flushNotices p

/-- A SVC whose reply line is at a place: its status, or the call made (R294). -/
def State.svcAt (s : State) (d a b : GReg) (pl : Place) : State :=
  let p := s.me.part
  let n := s.g a
  let line := s.g b
  let s := s.flushNotices p
  let x := s.svcDesc p
  if 0xfffd < n.toNat ∨ line.toNat % 64 ≠ 0 ∨ (homeKey pl).isNone then s.ret d 0x84#64
  else if 4 ≤ (s.watchesOf s.tid).length then s.ret d 0x80#64
  else if 1024 ≤ (s.core (tidCore s.tid)).watches.length then s.ret d 0x81#64
  else if x.bad || x.full then s.ret d 0x83#64
  else match s.checkPlace s.ag (Acc.store 8) pl with
    | (.fault code det, s) => s.fault code line det
    | (.ok pl, s) =>
      let s := s.storeCur pl (leBytes 8 0xffffffff)
      let (w, s) := s.arm s.tid p pl
      let s := s.svcAppend p n.toNat s.me.vf s.tid.toNat line [s.e 0, s.e 1, s.e 2]
      s.suspend (.svc d.toNat (w % 4)) 4
    | (_, s) => s.hold false line

/-- SVC (R294): checks 1, 2 and 5 to 7 of R160 on the reply line, for the store it makes there (R330). -/
def execSvc (d a b : GReg) (s : State) : Out :=
  match s.locate s.ag Acc.wprobe (s.g b) with
  | (.ok pl, s) => .next (s.svcAt d a b pl)
  | (.fault code det, s) => .next (s.fault code (s.g b) det)
  | (.page, s) => .next (s.hold true (s.g b))
  | (_, s) => .next (s.hold false (s.g b))

end Sys2Proof.Machine
end

