-- ==== Sys2Proof/Machine/Replay.lean ====
section
/-! DEFINITION. Replay capture (R361, R362): the words of the partition window and the records appended. Injection is in
Links.lean. -/

namespace Sys2Proof.Machine

/-- The replay words of partition p's window (R361). -/
def rOff (p off : Nat) : Nat := partBase p + off
/-- RMODE: 0 off, 1 capture, 2 replay. -/
def State.rmode (s : State) (p : Nat) : Nat := bitsOf (s.pfGet (rOff p 0xa00)) 0 2
/-- A partition in replay refuses outside writes (R363). -/
def State.replaying (s : State) (p : Nat) : Bool := s.rmode p == 2 && s.partRunning p
/-- DPA of the record at RHEAD. -/
def State.rPos (s : State) (p : Nat) : Nat := (s.pfGet (rOff p 0xa08)).toNat + (s.pfGet (rOff p 0xa18)).toNat

/-- Bytes of a record of n bytes of data: a 32-byte header, padded to a multiple of 64 (R362). -/
def recSize (n : Nat) : Nat := (32 + n + 63) / 64 * 64
/-- A record (R362). -/
def recBytes (kind ts addr port : Nat) (data : List Byte) : List Byte :=
  leBytes 8 (kind % 256 + data.length % 2 ^ 32 * 2 ^ 32) ++ leBytes 8 ts ++ leBytes 8 addr ++ leBytes 8 (port % 256) ++ data ++
  List.replicate (recSize data.length - 32 - data.length) 0#8

/-- An input recorded in capture mode (R362): kind 1 a write, 2 a launch record, 3 a notify. One that does not fit ends
the capture. The address of a write is its DPA, of a launch record its virtual address, of a notify 0x1_0000 + 8q (log 29). -/
def State.capture (s : State) (p kind addr port : Nat) (data : List Byte) : State :=
  if s.rmode p ≠ 1 ∨ s.partRunning p = false then s
  else
    let n := recSize data.length
    let head := (s.pfGet (rOff p 0xa18)).toNat
    let at_ := s.rPos p
    if (s.pfGet (rOff p 0xa10)).toNat < head + n ∨ (s.part p).dpaIn at_ n = false then s.pfSet (rOff p 0xa00) 4#64
    else
      (s.agentStore p (s.part p).homeVf (.mem ((s.part p).dpaKey at_)) (recBytes kind (s.tsOf p) addr port data) false).pfSet
        (rOff p 0xa18) (BitVec.ofNat 64 (head + n))

end Sys2Proof.Machine
end

