-- ==== Sys2Proof/Machine/Counters.lean ====
section
/-! DEFINITION. The performance counters (R371-R373). -/

namespace Sys2Proof.Machine

/-- Counter n of the current core. -/
def State.pcGet (s : State) (n : Nat) : PerfCtr := fget { value := 0#64, ctl := 0#64 } (s.core s.cur.1).perf n
def State.pcPut (s : State) (n : Nat) (x : PerfCtr) : State :=
  s.modCore s.cur.1 fun c => { c with perf := fput c.perf n x }

/-- A right over the current core (R373): of a deep core, an entry of KIND 3 or 4 for its bulkhead. -/
def State.holdsCore (s : State) (right : Nat) : Bool :=
  s.myTable.any fun x => grants x right &&
    (if isDeep s.cur.1 then coversBulk x (coreBulk s.cur.1) else covers x s.tid s.cur.1 none)

/-- Fault 0x0e SYS_OPERAND (R335): operand 0 is g(a), 1 g(b), 2-9 e0-e7. -/
def State.sysOperand (s : State) (x : Word) (f4 op : Nat) : State := s.fault 0x0e x (BitVec.ofNat 64 (f4 + 16 * op))

/-- A counter instruction (R373): the right, then the counter number in g(a)[1:0]. -/
def State.pcOp (s : State) (right f4 : Nat) (a : GReg) (f : Nat → State) : Out :=
  if s.holdsCore right = false then .next (s.noAuthority (s.g a) right f4)
  else if 4 ≤ (s.g a).toNat then .next (s.sysOperand (s.g a) f4 0)
  else .next (f (s.g a).toNat)

/-- Counter n of the current core before the cycle in which its instruction issues (R373). -/
def State.pcWas (s : State) (n : Nat) : PerfCtr := fget { value := 0#64, ctl := 0#64 } (s.core s.cur.1).perfWas n

/-- PCRD (R373). -/
def execPcrd (d a : GReg) (s : State) : Out := s.pcOp rREAD 4 a fun n => s.ret d (s.pcWas n).value
/-- PCRD.ctl (R373). -/
def execPcrdCtl (d a : GReg) (s : State) : Out := s.pcOp rREAD 4 a fun n => s.ret d (s.pcGet n).ctl

/-- A control word breaks a limit (R371-R373). -/
def pcCtlBad (deep : Bool) (x : Word) : Bool :=
  let e := bitsOf x 0 8
  bitsOf x 8 8 != 0 || bitsOf x 32 31 != 0 || decide (17 < e) ||
  (deep && ([3, 4, 12, 13, 14, 15].contains e || bitsOf x 20 12 != 0))
/-- PCSET (R373). -/
def execPcset (a b : GReg) (s : State) : Out :=
  s.pcOp rWRITE 5 a fun n =>
    if pcCtlBad (isDeep s.cur.1) (s.g b) then s.sysOperand (s.g b) 5 1
    else (s.pcPut n { value := 0#64, ctl := s.g b }).done
/-- PCSET.val (R373). -/
def execPcsetVal (a b : GReg) (s : State) : Out :=
  s.pcOp rWRITE 5 a fun n => (s.pcPut n { s.pcGet n with value := s.g b }).done

/-- n cluster events counted by the cores of a cluster (R372). -/
def State.countCluster (s : State) (u ev n : Nat) : State :=
  (List.range 4).foldl (fun s i => s.count (32 * (u / 8) + 4 * (u % 8) + i) ev none n) s

end Sys2Proof.Machine
end

