-- ==== Sys2Proof/Machine/Engine.lean ====
section
/-! DEFINITION. What the matrix engines, the streamers and the gates share (R71, R195, R201, R208, R227, R231, R240, R241):
commands, their records and their completion writes. -/

namespace Sys2Proof.Machine

/-- The engine of unit u acting for the issuer of a command (R231, R409). -/
def Issuer.agent (i : Issuer) (u : Nat) (h : Holder) : Agent :=
  { part := i.part, vf := i.vf, bulk := unitBulk u, unit := u, deep := false, engine := true, tid := i.tid, holder := h }
/-- The current thread as an issuer (R231): it carries the weight of its launch (R30, R234). -/
def State.issuer (s : State) : Issuer :=
  { tid := s.tid, pc := s.pc, faultLine := s.me.faultLine, vf := s.me.vf, part := s.me.part, weight := s.me.weight,
    unit := coreUnit s.cur.1 }
/-- The e registers that hold addresses in a command (R205, R236). -/
def addrRegs (matrix : Bool) (fn : Nat) : List Nat :=
  if matrix then [5]
  else match fn with
    | 2 => [0, 1, 3, 5]
    | 3 => [1, 5]
    | _ => [0, 1, 5]
/-- e0-e7 as they stand at issue (R71), a near-tarn alias in an address resolved to the tarn window of the issuing cluster
(R231, R233). -/
def State.eRegs (s : State) (matrix : Bool) (fn : Nat) : FMap Word :=
  (List.range 8).map fun n =>
    (n, if (addrRegs matrix fn).contains n then s.resolveNear s.me.part (coreUnit s.cur.1) (s.e n) else s.e n)
/-- Register e(n) of a command. -/
def ECmd.reg (c : ECmd) (n : Nat) : Word := fget 0#64 c.e n
/-- Field [lo+n-1:lo] of e(r). -/
def ECmd.fld (c : ECmd) (r lo n : Nat) : Nat := bitsOf (c.reg r) lo n

/-- The 64-byte record of an engine fault (R227, R241). -/
def Issuer.record (i : Issuer) (code : Nat) (addr detail : Word) : FaultRec :=
  { code := code, engine := true, notice := false, saved := false, late := false, tid := i.tid, pc := i.pc, addr := addr,
    detail := detail, vf := i.vf, core := 0xffff }
/-- An engine of unit u writes a fault record to the fault line its issuer had at issue (R227, R241). -/
def State.engineFault (s : State) (u : Nat) (i : Issuer) (code : Nat) (addr detail : Word) : State :=
  s.emit (unitBulk u) i.part i.faultLine (i.record code addr detail) 1
/-- The same of a command that leaves its queue with it (R201): whether it is written, or dropped. -/
def State.tryFault (s : State) (u : Nat) (i : Issuer) (code : Nat) (addr detail : Word) : Bool × State :=
  s.tryEmit (unitBulk u) i.part i.faultLine (i.record code addr detail) 1

/-- How a completion write ends: made, failed with a code of R160 or 0x35, or held. -/
inductive CompRes | done | failed (code : Nat) | held deriving DecidableEq, Repr

/-- The completion write of a command (R195, R208, R227, R240): once its data writes are performed at its scope, e6 stored, or 1
subtracted from the word at the address. -/
def State.completion (s : State) (u : Nat) (h : Holder) (c : ECmd) : CompRes × State :=
  let i := c.issuer
  match s.access (i.agent u h) (if c.fl.dec then Acc.atomic 8 else Acc.store 8) (c.reg 5) with
  | (.ok pl, s) =>
    if s.writesOut i.part c.fl.scope then (.held, s)
    else if c.fl.dec = false then (.done, s.agentStore i.part i.vf pl (leBytes 8 (c.reg 6).toNat) false)
    else match s.decAt i.part i.vf h pl false with
      | (.done, s) => (.done, s)
      | (.held, s) => (.held, s)
      | (.lost, s) => (.failed 0x61, s)
      | (.noCache, s) => (.failed 0x35, s)
  | (.fault code _, s) => (.failed code, s)
  | (_, s) => (.held, s)

/-- Refusals kept for a holder are dropped. -/
def State.clearRefused (s : State) (b : Nat) (h : Holder) : State :=
  s.modBulk b fun x => { x with refused := x.refused.filter fun r => r.holder ≠ h }

/-- The completion address of a command is canonical and 8-byte aligned (R209, R237). -/
def compBad (e5 : Word) : Bool := !canonical e5 || e5.toNat % 8 != 0

end Sys2Proof.Machine
end

