-- ==== Sys2Proof/Machine/Matrix.lean ====
section
/-! DEFINITION. The matrix engine (R73, R89-R91, R201-R218, R227): issue and its statuses, the start of commands, the
arithmetic, MZERO, MLOAD, DPLOAD, MDRES, ACCRD, MSTAT. -/

namespace Sys2Proof.Machine

/-- funct of MMA, MMAG, MZERO, MLOAD, MDRAIN, DPLOAD (R211). -/
def fMMA : Nat := 0
def fMMAG : Nat := 1
def fMZERO : Nat := 2
def fMLOAD : Nat := 3
def fMDRAIN : Nat := 4
def fDPLOAD : Nat := 8

/-- A matrix product. -/
def ECmd.isMma (c : ECmd) : Bool := c.fn == fMMA || c.fn == fMMAG
/-- A command that names a tile: every one but DPLOAD (R211). -/
def ECmd.hasTile (c : ECmd) : Bool := c.fn != fDPLOAD
/-- M and N (R205). -/
def ECmd.m (c : ECmd) : Nat := 8 * 2 ^ c.fld 3 0 2
def ECmd.n (c : ECmd) : Nat := 8 * 2 ^ c.fld 3 2 2
/-- K. -/
def ECmd.k (c : ECmd) : Nat := c.fld 3 4 13 + 1
/-- Format codes of A and B (R206). -/
def ECmd.fa (c : ECmd) : Nat := c.fld 3 17 4
def ECmd.fb (c : ECmd) : Nat := c.fld 3 21 4
/-- It drains: MDRAIN, or MMA and MMAG with drain after (R203). -/
def ECmd.drains (c : ECmd) : Bool := c.fn == fMDRAIN || (c.isMma && (c.reg 3).getLsbD 31)
/-- Its drain program (R205). -/
def ECmd.prog (c : ECmd) : Nat := c.fld 3 25 6

/-- Bits per element of a format (R206). -/
def fmtBits : Nat → Nat
  | 0 => 32 | 1 => 16 | 2 => 16 | 3 => 8 | 4 => 8 | 5 => 6 | 6 => 6 | 7 => 8 | _ => 4
/-- K must be a multiple of it (R206). -/
def fmtMult : Nat → Nat
  | 5 => 4 | 6 => 4 | 8 => 2 | 9 => 32 | _ => 1
/-- The integer class (R89). -/
def fmtInt (f : Nat) : Bool := f == 7 || f == 8
/-- The row length of K elements (R207). -/
def rowLen (f k : Nat) : Nat := (k * fmtBits f + 7) / 8

/-- Status 3 for one operand (R207, R209): base and stride in an e register, rows 0 to rows − 1. -/
def spanBad (e : Word) (len rows : Nat) : Bool :=
  let base := bitsOf e 0 22
  let stride := bitsOf e 22 22
  base % 64 != 0 || stride % 64 != 0 || decide (stride < len) || decide (2 ^ 22 < base + (rows - 1) * stride + len)
/-- Status 3 for the scale bytes of a q4 operand. -/
def scaleBad (f base k rows : Nat) : Bool := f == 9 && decide (2 ^ 22 < base + rows * (k / 32))

/-- Status 3 of a command (R209). -/
def ECmd.status3 (c : ECmd) : Bool :=
  if c.isMma then
    let rows := if c.fn = fMMAG then 1 else c.m
    spanBad (c.reg 0) (rowLen c.fa c.k) rows || scaleBad c.fa (c.fld 2 0 22) c.k rows ||
    spanBad (c.reg 1) (rowLen c.fb c.k) c.n || scaleBad c.fb (c.fld 2 22 22) c.k c.n ||
    (c.fn == fMMAG && (c.fld 7 0 22 % 64 != 0 || decide (2 ^ 22 < c.fld 7 0 22 + 2 * c.m)))
  else c.fn == fMLOAD && spanBad (c.reg 0) (4 * c.n) c.m
/-- Status 6 of a command (R205, R209). -/
def ECmd.status6 (c : ECmd) : Bool :=
  (c.isMma && (c.fld 0 44 20 != 0 || c.fld 1 44 20 != 0 || ((c.fa == 9 || c.fb == 9) && c.fld 2 44 20 != 0))) ||
  (c.fn == fMLOAD && c.fld 0 44 20 != 0) ||
  ((c.isMma || c.fn == fMLOAD || c.fn == fMDRAIN) && c.fld 3 32 32 != 0) ||
  (c.drains && c.fld 4 22 42 != 0) || (c.fn == fMMAG && c.fld 7 22 42 != 0)

/-- The status of a queued matrix command (R209). -/
def ECmd.matrixStatus (c : ECmd) : Nat :=
  if c.isMma && ((c.fa ≤ 9 && c.k % fmtMult c.fa != 0) || (c.fb ≤ 9 && c.k % fmtMult c.fb != 0)) then 1
  else if c.isMma && (decide (9 < c.fa) || decide (9 < c.fb) || fmtInt c.fa != fmtInt c.fb) then 2
  else if c.status3 then 3
  else if c.drains && c.fld 4 0 22 % 64 != 0 then 4
  else if compBad (c.reg 5) then 5
  else if c.status6 then 6
  else if c.fn = fDPLOAD ∧ (63 < c.slot ∨ c.src.toNat % 64 ≠ 0) then 8
  else 0

/-- Room in the command queue for a thread: fired gates go first (R202, R244). -/
def Clus.mqRoom (u : Clus) : Bool := decide (u.mq.length < 16) && !(u.gates.any fun g => g.fired.isSome && g.cmd.matrix)
/-- Status and saved drain of a tile. -/
def Clus.tile (u : Clus) (t : Nat) : TileStat := fget TileStat.empty u.stat t
def Clus.setTile (u : Clus) (t : Nat) (f : TileStat → TileStat) : Clus := { u with stat := fput u.stat t (f (u.tile t)) }

/-- A queued matrix command issues (R202, R209): a context whose queue is full is not ready. -/
def State.matrixIssue (s : State) (fn : Nat) (x : EFlags) (d : GReg) (tile : Nat) (src : Word) (slot : Nat) : Out :=
  if isDeep s.cur.1 then .next (s.fault 0x06 0#64 0#64)
  else
    let u := coreUnit s.cur.1
    if (s.unit u).mqRoom = false then .next s
    else
      let c : ECmd := { fn := fn, matrix := true, tile := tile, fl := x, e := s.eRegs true fn, src := src, slot := slot,
                        issuer := s.issuer, phase := .waiting, index := [], piece := 0, refused := none, fault := none }
      let st := c.matrixStatus
      let s := if st = 0 then s.modUnit u fun y => { y with mq := y.mq ++ [c] } else s
      .next (s.ret d (BitVec.ofNat 64 st))

/-- MMA, MMAG, MZERO, MLOAD, MDRAIN (R211-R214). -/
def execMma (x : EFlags) (d : GReg) (t : BitVec 3) (s : State) : Out := s.matrixIssue fMMA x d t.toNat 0#64 0
def execMmag (x : EFlags) (d : GReg) (t : BitVec 3) (s : State) : Out := s.matrixIssue fMMAG x d t.toNat 0#64 0
def execMzero (x : EFlags) (d : GReg) (t : BitVec 3) (s : State) : Out := s.matrixIssue fMZERO x d t.toNat 0#64 0
def execMload (x : EFlags) (d : GReg) (t : BitVec 3) (s : State) : Out := s.matrixIssue fMLOAD x d t.toNat 0#64 0
def execMdrain (x : EFlags) (d : GReg) (t : BitVec 3) (s : State) : Out := s.matrixIssue fMDRAIN x d t.toNat 0#64 0
/-- DPLOAD (R218): it names no tile, which its commands hold as 8. -/
def execDpload (x : EFlags) (d a b : GReg) (s : State) : Out :=
  s.matrixIssue fDPLOAD x d 8 (s.resolveNear s.me.part (coreUnit s.cur.1) (s.g a)) (s.g b).toNat

/-- MDRES (R215): the saved drain waits for the drain unit. FAULT stays set until it starts, so a second MDRES meanwhile answers
0 and does nothing (log 93). -/
def execMdres (d : GReg) (t : BitVec 3) (s : State) : Out :=
  if isDeep s.cur.1 then .next (s.fault 0x06 0#64 0#64)
  else
    let u := coreUnit s.cur.1
    let x := s.unit u
    let t := t.toNat
    if (x.tile t).fault = false then .next (s.ret d 7#64)
    else match x.saved.find? fun y => y.1 == t with
      | none => .next (s.ret d 0#64)
      | some y =>
        .next ((s.modUnit u fun z => { z with saved := fdel z.saved t, resumed := z.resumed ++ [{ y.2 with phase := .waiting }] }).ret d 0#64)

/-- ACCRD gets a retry (R216): the tile is locked, or a queued command names it and is not held by a fault. -/
def Clus.accBlocked (u : Clus) (t : Nat) : Bool :=
  (u.tile t).lock || u.mq.any fun c => c.hasTile && c.tile == t && !((u.tile t).fault && c.phase == .waiting && c.fn != fMZERO)
/-- Element (row, col) of a tile. -/
def tileKey (t row col : Nat) : Nat := 4096 * t + 64 * row + col
def Clus.elem (u : Clus) (t row col : Nat) : W32 := fget 0#32 u.tiles (tileKey t row col)
def Clus.setElem (u : Clus) (t row col : Nat) (x : W32) : Clus := { u with tiles := fset 0#32 u.tiles (tileKey t row col) x }

/-- ACCRD (R216), a long-latency producer; a retried context is passed over until the cause clears (log 23). -/
def execAccrd (d : VReg) (t : BitVec 3) (a : GReg) (s : State) : Out :=
  if isDeep s.cur.1 then .next (s.fault 0x06 0#64 0#64)
  else
    let x := s.unit (coreUnit s.cur.1)
    let t := t.toNat
    if x.accBlocked t then .next ((s.count s.cur.1 12 (some s.cur.2) 1).waitFor (.tile t))
    else
      let row := bitsOf (s.g a) 0 6
      let q := bitsOf (s.g a) 6 2
      let v := pack 32 ((List.range 16).map fun l => (x.elem t row (16 * q + l)).toNat)
      .next (s.launchProd (.v d.toNat 1) .done_ (.valueV [v]) 4)

/-- The status word of a tile (R217). -/
def Clus.statWord (u : Clus) (t : Nat) : Word :=
  let x := u.tile t
  let q := (u.mq.filter fun c => c.hasTile && c.tile == t).length
  BitVec.ofNat 64 (x.lock.toNat + x.fault.toNat * 2 + x.crow % 64 * 2 ^ 4 + x.cblk % 2 * 2 ^ 10 + x.prog % 64 * 2 ^ 12 + q % 32 * 2 ^ 20)
/-- MSTAT (R217). -/
def execMstat (d : GReg) (t : BitVec 3) (s : State) : Out :=
  if isDeep s.cur.1 then .next (s.fault 0x06 0#64 0#64)
  else .next (s.ret d ((s.unit (coreUnit s.cur.1)).statWord t.toNat))

/-- Units a command uses: the array unit, the drain unit (R203). -/
def ECmd.usesArray (c : ECmd) : Bool := c.fn < 4
def ECmd.unitClash (a b : ECmd) : Bool := (a.usesArray && b.usesArray) || (a.drains && b.drains)
/-- An earlier command of the queue keeps command c from starting (R203; log 21). An MZERO of a faulted tile starts ahead
of the commands that a faulted tile holds. -/
def Clus.bars (u : Clus) (c x : ECmd) : Bool :=
  if c.fn = fDPLOAD then x.drains && x.prog == c.slot && x.phase != .drain && x.phase != .complete && x.phase != .faulted
  else if c.fn == fMZERO && (u.tile c.tile).fault && x.phase == .waiting && x.hasTile && x.fn != fMZERO && (u.tile x.tile).fault then false
  else (x.hasTile && x.tile == c.tile) || (x.phase == .waiting && x.unitClash c)
/-- A drain waits for every earlier DPLOAD to its slot (R203). -/
def Clus.dploadAhead (u : Clus) (n : Nat) (c : ECmd) : Bool :=
  (u.mq.take n).any fun x => x.fn == fDPLOAD && x.slot == c.prog && x.phase != .faulted
/-- The array unit and the drain unit are idle. -/
def Clus.arrayIdle (u : Clus) : Bool := !(u.mq.any fun x => x.phase == .array)
/-- Resumed drains that still wait for the drain unit (R215); those in phase complete wait for their completion write. -/
def Clus.nextResumed (u : Clus) : Option ECmd := u.resumed.find? fun x => x.phase == .waiting
def Clus.drainFree (u : Clus) : Bool := u.run.isNone && u.nextResumed.isNone
/-- Command n of the queue may start (R203). -/
def Clus.mayStart (u : Clus) (n : Nat) (c : ECmd) : Bool :=
  c.phase == .waiting && !((u.mq.take n).any (u.bars c)) &&
  (c.fn == fDPLOAD ||
    (!(u.tile c.tile).lock && (!(u.tile c.tile).fault || c.fn == fMZERO) &&
      (if c.fn = fMDRAIN then u.drainFree && !u.dploadAhead n c else u.arrayIdle)))

/-- The queue without its n-th entry. -/
def Clus.dropMq (u : Clus) (n : Nat) : Clus := { u with mq := u.mq.eraseIdx n }
/-- Its n-th entry changed. -/
def Clus.modMq (u : Clus) (n : Nat) (f : ECmd → ECmd) : Clus := { u with mq := u.mq.modify n f }
/-- The lock bit of a command's tile (R73). -/
def Clus.lockFor (u : Clus) (c : ECmd) (b : Bool) : Clus :=
  if c.hasTile then u.setTile c.tile fun x => { x with lock := b } else u
/-- Entry n leaves the queue in the step that writes its fault record (R201); while the record waits for its line it stays. -/
def State.mqRecord (s : State) (u n : Nat) (c : ECmd) (code : Nat) (addr detail : Word) : State :=
  match s.tryFault u c.issuer code addr detail with
  | (true, s) => s.modUnit u fun x => x.dropMq n
  | (false, s) => s.modUnit u fun x => x.modMq n fun y => { y with phase := .faulted, fault := some (code, addr, detail) }
/-- Command n stops on a fault (R201, R227): the lock cleared, its record. -/
def State.mqAbort (s : State) (u n : Nat) (c : ECmd) (code : Nat) (addr detail : Word) : State :=
  (s.modUnit u fun x => x.lockFor c false).mqRecord u n c code addr detail

/-- The tarn bytes an engine of unit u reads. -/
def State.tarnBytes (s : State) (u off n : Nat) : List Byte := s.mem.bytes (tarnKey u off) n
/-- The first poisoned block among n bytes of the tarn, as its offset. -/
def State.tarnPoison (s : State) (u off n : Nat) : Option Nat :=
  if n = 0 then none
  else ((List.range ((off + n - 1) / 64 + 1 - off / 64)).find? fun i => s.mem.poisoned (tarnKey u (64 * (off / 64 + i))) 64).map
    fun i => 64 * (off / 64 + i)

/-- An index places a row's last byte or last scale byte at 4 MiB or beyond (R210). -/
def ECmd.indexBad (c : ECmd) (x : Nat) : Bool :=
  decide (2 ^ 22 < c.fld 0 0 22 + x * c.fld 0 22 22 + rowLen c.fa c.k) ||
  (c.fa == 9 && decide (2 ^ 22 < c.fld 2 0 22 + (x + 1) * (c.k / 32)))

/-- An array command starts (R203, R210, R212): the lock is set; MMAG reads its index list. A poisoned index list stops it with
0x61 before its first chunk, and DETAIL names chunk 0 (log 85). -/
def State.arrayStart (s : State) (u n : Nat) (c : ECmd) : State :=
  let s := s.modUnit u fun x => (x.lockFor c true).modMq n fun y => { y with phase := .array }
  if c.fn = fMMAG then
    let off := c.fld 7 0 22
    match s.tarnPoison u off (2 * c.m) with
    | some b => s.mqAbort u n c 0x61 (BitVec.ofNat 64 b) (BitVec.ofNat 64 (c.tile * 256))
    | none =>
      let ix := (List.range c.m).map fun i => leNat (s.tarnBytes u (off + 2 * i) 2)
      match ix.findIdx? c.indexBad with
      | some i => s.mqAbort u n c 0x42 (BitVec.ofNat 64 (off + 2 * i)) (BitVec.ofNat 64 (i + c.tile * 256))
      | none => s.modUnit u fun x => x.modMq n fun y => { y with index := ix }
  else s

/-- The row of A that stands at place i (R207). -/
def ECmd.aRow (c : ECmd) (i : Nat) : Nat := if c.fn = fMMAG then c.index.getD i 0 else i
/-- Tarn offset of a row of an operand in e(r), and of its scale bytes, whose base is at bit lo of e2. -/
def ECmd.rowOff (c : ECmd) (r x : Nat) : Nat := c.fld r 0 22 + x * c.fld r 22 22
def ECmd.scaleOff (c : ECmd) (lo x : Nat) : Nat := c.fld 2 lo 22 + x * (c.k / 32)

/-- The K-chunk size (R90). -/
def ECmd.kc (c : ECmd) : Nat :=
  if c.fa = 9 ∨ c.fb = 9 then 32 else if c.fa ≤ 2 ∨ c.fb ≤ 2 then 16 else 32
/-- The number of K-chunks. -/
def ECmd.chunks (c : ECmd) : Nat := (c.k + c.kc - 1) / c.kc

/-- The first poisoned block that chunk n uses of row x of an operand: its elements, then its scale byte (R212). -/
def State.rowPoison (s : State) (u : Nat) (c : ECmd) (r f lo n x : Nat) : Option Nat :=
  let a := n * c.kc * fmtBits f / 8
  let hi := (min c.k ((n + 1) * c.kc) * fmtBits f + 7) / 8
  match s.tarnPoison u (c.rowOff r x + a) (hi - a) with
  | some b => some b
  | none => if f = 9 then s.tarnPoison u (c.scaleOff lo x + n) 1 else none
/-- The first poisoned block of chunk n in the order of gathering: A's rows, then B's (R210). -/
def State.chunkPoison (s : State) (u : Nat) (c : ECmd) (n : Nat) : Option Nat :=
  match (List.range c.m).findSome? fun i => s.rowPoison u c 0 c.fa 0 n (c.aRow i) with
  | some b => some b
  | none => (List.range c.n).findSome? fun j => s.rowPoison u c 1 c.fb 22 n j
/-- The first poisoned chunk and block, if any, of those not yet summed (R212, R229). -/
def State.firstPoison (s : State) (u : Nat) (c : ECmd) : Option (Nat × Nat) :=
  ((List.range c.chunks).drop c.piece).findSome? fun n => (s.chunkPoison u c n).map fun b => (n, b)

/-- Element k of a row's packed bits (R81). -/
def rowCode (f bits k : Nat) : Nat := (bits >>> (fmtBits f * k)) % 2 ^ fmtBits f
/-- The value of an element in the FP32 class, with the scale byte of its q4 block (R84, R89). -/
def fmtValue (f code scale : Nat) : Fv :=
  match f with
  | 0 => fp32.value code
  | 1 => bf16.value code
  | 2 => fp16.value code
  | 3 => e4m3.value code
  | 4 => e5m2.value code
  | 5 => e3m2.value code
  | 6 => e2m3.value code
  | _ => q4Value scale code
/-- The elements of a row from k = lo to hi − 1 as values, and as integers. -/
def rowValues (f bits : Nat) (scales : List Byte) (lo hi : Nat) : List Fv :=
  (List.range (hi - lo)).map fun i => fmtValue f (rowCode f bits (lo + i)) (scales.getD ((lo + i) / 32) 0#8).toNat
def rowInts (f bits lo hi : Nat) : List Int :=
  (List.range (hi - lo)).map fun i => signed (fmtBits f) (rowCode f bits (lo + i))

/-- The exact sum of products of a chunk (R90). -/
def dotValue (a b : List Fv) : Fv :=
  match (a.zip b).foldl (fun t p => (t.add .rne (p.1.mul p.2).1).1) (Fv.fin false 0 0) with
  | .fin _ 0 _ => .fin false 0 0
  | v => v
/-- The exact integer sum of a chunk (R91). -/
def dotInt (a b : List Int) : Int := (a.zip b).foldl (fun t p => t + p.1 * p.2) 0

/-- An operand row as read: its bits and its scale bytes. -/
def State.operandRow (s : State) (u : Nat) (c : ECmd) (r f lo x : Nat) : Nat × List Byte :=
  (leNat (s.tarnBytes u (c.rowOff r x) (rowLen f c.k)), if f = 9 then s.tarnBytes u (c.scaleOff lo x) (c.k / 32) else [])

/-- One tile element after the chunks from the command's position to a number of them (R90, R91, R229). -/
def mmaElem (c : ECmd) (a b : Nat × List Byte) (chunks : Nat) (acc : W32) : W32 :=
  ((List.range chunks).drop c.piece).foldl (fun acc n =>
    let lo := n * c.kc
    let hi := min c.k (lo + c.kc)
    if fmtInt c.fa then acc + BitVec.ofInt 32 (dotInt (rowInts c.fa a.1 lo hi) (rowInts c.fb b.1 lo hi))
    else
      let t := (fp32.encode .rne (dotValue (rowValues c.fa a.1 a.2 lo hi) (rowValues c.fb b.1 b.2 lo hi))).1
      BitVec.ofNat 32 (fp32.op2 .rne (Fv.add .rne) acc.toNat t).1) acc

/-- The product entered into the tile, from the command's position up to the first `chunks` chunks of it (R212, R229). -/
def State.mmaTile (s : State) (u : Nat) (c : ECmd) (chunks : Nat) : State :=
  let as := (List.range c.m).map fun i => s.operandRow u c 0 c.fa 0 (c.aRow i)
  let bs := (List.range c.n).map fun j => s.operandRow u c 1 c.fb 22 j
  let s := s.countCluster u 13 (chunks - c.piece)
  s.modUnit u fun x => (List.range c.m).foldl (fun x i => (List.range c.n).foldl (fun x j =>
    x.setElem c.tile i j (mmaElem c (as.getD i (0, [])) (bs.getD j (0, [])) chunks (x.elem c.tile i j))) x) x

/-- The data writes of command n are done: its completion (R208, R227). It clears the lock and frees the entry; held by a
page request it keeps both. -/
def State.mqComplete (s : State) (u n : Nat) (c : ECmd) : State :=
  match s.completion u (.engine u c.tile) c with
  | (.done, s) => s.modUnit u fun x => (x.lockFor c false).dropMq n
  | (.failed code, s) =>
    s.mqAbort u n c 0x25 (c.reg 5) (BitVec.ofNat 64 (code % 256 + (if c.hasTile then c.tile else 0) * 256))
  | (.held, s) => s.modUnit u fun x => x.modMq n fun y => { y with phase := .complete }

/-- MMA and MMAG's arithmetic (R212). -/
def State.mmaRun (s : State) (u n : Nat) (c : ECmd) : State :=
  match s.firstPoison u c with
  | some (k, b) =>
    (s.mmaTile u c k).mqAbort u n c 0x61 (BitVec.ofNat 64 b) (BitVec.ofNat 64 (c.tile * 256 + k * 2 ^ 11))
  | none =>
    let s := s.mmaTile u c c.chunks
    if c.drains then s.modUnit u fun x => x.modMq n fun y => { y with phase := .drainWait } else s.mqComplete u n c

/-- MMA or MMAG stops at the end of the chunk in progress (R229): which one that is, the device's timing decides (log 11). -/
def State.mmaStop (s : State) (u n : Nat) (c : ECmd) : State :=
  let k := c.piece + 1 + Config.freeNat s.free % (c.chunks - c.piece)
  let s := { s with free := s.free + 1 }
  let poisoned := match s.firstPoison u c with | some (b, _) => decide (b < k) | none => false
  if poisoned || decide (c.chunks ≤ k) then s.mmaRun u n c
  else (s.mmaTile u c k).modUnit u fun x => x.modMq n fun y => { y with piece := k }

/-- MZERO's effect on its tile (R213). -/
def Clus.zeroTile (u : Clus) (t : Nat) : Clus :=
  { (u.setTile t fun x => { x with fault := false }) with
    tiles := u.tiles.filter fun x => x.1 / 4096 ≠ t
    saved := fdel u.saved t
    resumed := u.resumed.filter fun x => !(x.tile == t && x.phase == .waiting) }

/-- MLOAD (R213): every block is read before any element is written. -/
def State.mloadRun (s : State) (u n : Nat) (c : ECmd) : State :=
  let bad := (List.range c.m).findSome? fun i => (s.tarnPoison u (c.rowOff 0 i) (4 * c.n)).map fun b => (i, b)
  match bad with
  | some (i, b) => s.mqAbort u n c 0x61 (BitVec.ofNat 64 b) (BitVec.ofNat 64 (c.tile * 256 + i * 2 ^ 11))
  | none =>
    let s' := s.modUnit u fun x => (List.range c.m).foldl (fun x i => (List.range c.n).foldl (fun x j =>
      x.setElem c.tile i j (BitVec.ofNat 32 (leNat (s.tarnBytes u (c.rowOff 0 i + 4 * j) 4)))) x) x
    s'.mqComplete u n c

/-- The array command in progress completes (R210-R213). -/
def State.arrayRun (s : State) (u n : Nat) (c : ECmd) : State :=
  if c.isMma then s.mmaRun u n c
  else if c.fn = fMLOAD then s.mloadRun u n c
  else (s.modUnit u fun x => x.zeroTile c.tile).mqComplete u n c

end Sys2Proof.Machine
end

