-- ==== Sys2Proof/Machine/Copies.lean ====
section
/-! DEFINITION. Copies (R231-R241): issue and its statuses, routing, arrival, the turns of a streamer, pieces,
completions. -/

namespace Sys2Proof.Machine

/-- funct of CPY, CPYS, CPYG, FILL (R235). -/
def fCPY : Nat := 0
def fCPYS : Nat := 1
def fCPYG : Nat := 2
def fFILL : Nat := 3

/-- Row length and rows of CPYS, element size and count of CPYG (R236). -/
def ECmd.w (c : ECmd) : Nat := c.fld 2 0 24
def ECmd.h (c : ECmd) : Nat := c.fld 2 24 24
def ECmd.elemSize (c : ECmd) : Nat := c.fld 2 0 13
def ECmd.count (c : ECmd) : Nat := c.fld 2 16 24
/-- The length of a command's byte sequence (R238). -/
def ECmd.total (c : ECmd) : Nat :=
  if c.fn = fCPYS then c.w * c.h else if c.fn = fCPYG then c.elemSize * c.count else c.fld 2 0 36
/-- Its pieces (R239). -/
def ECmd.pieces (c : ECmd) : Nat := (c.total + 4095) / 4096

/-- The status of a copy command (R237). -/
def ECmd.copyStatus (c : ECmd) : Nat :=
  if (c.fn = fCPYS ∧ (c.w = 0 ∨ c.h = 0 ∨ 2 ^ 36 - 1 < c.w * c.h)) ∨
    (c.fn = fCPYG ∧ (c.elemSize = 0 ∨ 4096 < c.elemSize)) then 1
  else if c.fn = fCPYG ∧ (c.reg 3).toNat % 4 ≠ 0 then 3
  else if compBad (c.reg 5) then 5
  else if (if c.fn = fCPYS then c.fld 2 48 16 != 0
    else if c.fn = fCPYG then c.fld 2 13 3 != 0 || c.fld 2 40 24 != 0 else c.fld 2 36 28 != 0) then 6
  else 0

/-- Copies of outbound queue u still on their way to a streamer: they keep their entries (R232). -/
def State.flyingFrom (s : State) (u : Nat) : Nat :=
  (s.units.map fun x => (x.2.flying.filter fun c => c.issuer.unit == u).length).foldl (· + ·) 0
/-- A free entry of the outbound queue. -/
def State.outFree (s : State) (u : Nat) : Bool := decide ((s.unit u).outq.length + s.flyingFrom u < 16)
/-- An entry free for a thread: fired gates go first (R232, R244). -/
def State.outRoom (s : State) (u : Nat) : Bool :=
  s.outFree u && !((s.unit u).gates.any fun g => g.fired.isSome && !g.cmd.matrix)

/-- The first address operand of a deep-core command that lies in the near-tarn alias (R30, R233). -/
def State.deepAlias (s : State) (ops : List Word) : Option Word := if isDeep s.cur.1 then ops.find? nearAlias else none
/-- The address operands of a copy as they stand in e registers. -/
def State.copyOperands (s : State) (fn : Nat) : List Word := (addrRegs false fn).map s.e

/-- A copy command of the current thread, operands as read at issue (R71). -/
def State.newCmd (s : State) (matrix : Bool) (fn tile : Nat) (x : EFlags) : ECmd :=
  { fn := fn, matrix := matrix, tile := tile, fl := x, e := s.eRegs matrix fn, src := 0#64, slot := 0, issuer := s.issuer,
    phase := .waiting, index := [], piece := 0, refused := none, fault := none }

/-- A copy command issues (R232, R237). -/
def State.copyIssue (s : State) (fn : Nat) (x : EFlags) (d : GReg) : Out :=
  let u := coreUnit s.cur.1
  if s.outRoom u = false then .next s
  else match s.deepAlias (s.copyOperands fn) with
    | some a => .next (s.fault 0x06 a 0#64)
    | none =>
      let c := s.newCmd false fn 0 x
      let st := c.copyStatus
      let s := if st = 0 then s.modUnit u fun y => { y with outq := y.outq ++ [c] } else s
      .next (s.ret d (BitVec.ofNat 64 st))

/-- CPY, CPYS, CPYG, FILL (R235-R238). -/
def execCpy (x : EFlags) (d : GReg) (s : State) : Out := s.copyIssue fCPY x d
def execCpys (x : EFlags) (d : GReg) (s : State) : Out := s.copyIssue fCPYS x d
def execCpyg (x : EFlags) (d : GReg) (s : State) : Out := s.copyIssue fCPYG x d
def execFill (x : EFlags) (d : GReg) (s : State) : Out := s.copyIssue fFILL x d

/-- The cluster beside a channel (R233). -/
def besideChannel (n : Nat) : Nat := if n = 6 then 2 else if n = 7 then 3 else n
/-- The streamer of the issuing cluster; of cluster 0 for a deep core (R233). -/
def Issuer.streamer (i : Issuer) : Nat := if i.unit % 8 = 6 then i.unit - 6 else i.unit
/-- The streamer for a place of the routing byte (R233). -/
def routeOf (i : Issuer) : Place → Nat
  | .mem k =>
    if isTarnKey k then (k - 2 ^ 48) / 2 ^ 22
    else if isDevKey k then 8 * (k / 2 ^ 34) + besideChannel (channelOf (k % 2 ^ 34))
    else i.streamer
  | _ => i.streamer

/-- The head of an outbound queue goes to a streamer's unit. -/
def State.forwardTo (s : State) (u v : Nat) (c : ECmd) : State :=
  let s := s.modUnit u fun x => { x with outq := x.outq.drop 1 }
  s.modUnit v fun x => { x with flying := x.flying ++ [{ c with phase := .forwarding }] }

/-- OUTBOUND_FORWARD (R232, R233): the routing byte of the oldest entry is translated; a pending translation holds it, and the
entries behind it (log 84). A refused one goes to the streamer that faults it. A forward of a VF that a switch has reached is in the
holding buffers (R288), as are those on their way. -/
def execOutboundForward (u : Nat) (s : State) : Out :=
  match (s.unit u).outq with
  | [] => .next s
  | c :: _ =>
    let fill := c.fn == fFILL
    if s.engineStop c then .next s
    else match s.locate (c.issuer.agent u (.outbound u)) { Acc.load 1 with write := fill } (c.reg (if fill then 1 else 0)) with
    | (.ok pl, s) => .next (s.forwardTo u (routeOf c.issuer pl) c)
    | (.fault k _, s) => .next (s.forwardTo u c.issuer.streamer { c with refused := some k })
    | (_, s) => .next s

/-- STREAMER_ARRIVAL (R232): the n-th command on its way enters the streamer queue if there is room; commands of one
outbound queue arrive in their order. -/
def execStreamerArrival (cl n : Nat) (s : State) : Out :=
  let x := s.unit cl
  match x.flying[n]? with
  | none => .next s
  | some c =>
    if ((x.flying.take n).any fun y => y.issuer.unit == c.issuer.unit) || decide (64 ≤ x.sq.length) || s.engineStop c then .next s
    else .next (s.modUnit cl fun y =>
      { y with flying := y.flying.eraseIdx n, sq := y.sq ++ [{ c with phase := .arrived }] })

/-- The place of a requester in a streamer's round (R234): flat clusters, then deep cores by rank. -/
def State.reqOrder (s : State) (p u : Nat) : Nat :=
  if u % 8 = 6 then 1000 + (s.part p).rank (u / 8) else (s.part p).flatCl u
/-- The first requester of a list in the round. -/
def leastReq (f : Nat → Nat) (l : List Nat) : Option Nat :=
  l.foldl (fun m u => match m with | none => some u | some v => if f u < f v then some u else some v) none
/-- The requester served after place k of the round: the next with work, else the first. -/
def nextReq (f : Nat → Nat) (k : Nat) (l : List Nat) : Option Nat :=
  match leastReq f (l.filter fun u => k < f u) with
  | some u => some u
  | none => leastReq f l
/-- The requester whose turn it is, and the pieces left in its turn (R234). -/
def State.streamTurn (s : State) (u : Nat) : Option (Nat × Nat) :=
  let x := s.unit u
  match x.sq.head? with
  | none => none
  | some c0 =>
    let f := s.reqOrder c0.issuer.part
    let l := x.sq.map fun c => c.issuer.unit
    let fresh (v : Nat) : Nat × Nat := (v, ((x.sq.find? fun c => c.issuer.unit == v).map fun c => max 1 c.issuer.weight).getD 1)
    match x.turn with
    | some (r, k + 1) => if l.contains r then some (r, k + 1) else (nextReq f (f r) l).map fresh
    | some (r, 0) => (nextReq f (f r) l).map fresh
    | none => (leastReq f l).map fresh

/-- How the checks of one byte of a piece end. -/
inductive ByteRes
  /-- its destination, value and poison -/
  | ok (pl : Place) (b : Byte) (poison : Bool)
  /-- COPY_READ or COPY_WRITE, the address, the code -/
  | bad (code : Nat) (va : Word) (check : Nat)
  | held
  deriving DecidableEq, Repr

/-- The agent of a streamer for a command (R409). -/
def ECmd.copyAgent (c : ECmd) (u : Nat) : Agent := c.issuer.agent u (.engine u (1000 + c.issuer.unit))

/-- Source address of byte j, or what keeps it from being known: CPYG's index entry (R238). -/
def State.copySource (s : State) (u : Nat) (c : ECmd) (j : Nat) : (Word ⊕ ByteRes) × State :=
  if c.fn = fCPYS then
    (.inl (c.reg 0 + BitVec.ofNat 64 (j / c.w) * ((c.reg 3).setWidth 32).signExtend 64 + BitVec.ofNat 64 (j % c.w)), s)
  else if c.fn = fCPYG then
    let va := c.reg 3 + BitVec.ofNat 64 (4 * (j / c.elemSize))
    match s.access (c.copyAgent u) (Acc.load 4) va with
    | (.ok pl, s) =>
      let (l, s) := s.linkRead c.issuer.part c.issuer.vf (c.copyAgent u).holder pl 4
      if l = .held then (.inr .held, s)
      else if l = .refused then (.inr (.bad 0x23 va 0x16), s)
      else if l == .lost || s.placePoison pl 4 then (.inr (.bad 0x23 va 0x61), s)
      else
        let idx := leNat (s.readPlace c.issuer.part pl 4)
        (.inl (c.reg 0 + BitVec.ofNat 64 (idx * c.elemSize + j % c.elemSize)), s)
    | (.fault k _, s) => (.inr (.bad 0x23 va k), s)
    | (_, s) => (.inr .held, s)
  else (.inl (c.reg 0 + BitVec.ofNat 64 j), s)

/-- Destination address of byte j (R238). -/
def ECmd.copyDest (c : ECmd) (j : Nat) : Word :=
  if c.fn = fCPYS then
    c.reg 1 + BitVec.ofNat 64 (j / c.w) * ((c.reg 3 >>> 32).setWidth 32).signExtend 64 + BitVec.ofNat 64 (j % c.w)
  else c.reg 1 + BitVec.ofNat 64 j

/-- The value and poison of byte j (R238). -/
def State.copyValue (s : State) (u : Nat) (c : ECmd) (j : Nat) : ((Byte × Bool) ⊕ ByteRes) × State :=
  if c.fn = fFILL then (.inl (BitVec.ofNat 8 ((c.reg 0).toNat >>> (8 * ((c.copyDest j).toNat % 8))), false), s)
  else
    match s.copySource u c j with
    | (.inr r, s) => (.inr r, s)
    | (.inl va, s) =>
      match s.access (c.copyAgent u) { Acc.load 1 with align := 1 } va with
      | (.ok pl, s) =>
        let (l, s) := s.linkRead c.issuer.part c.issuer.vf (c.copyAgent u).holder pl 1
        if l = .held then (.inr .held, s)
        else if l = .refused then (.inr (.bad 0x23 va 0x16), s)
        else (.inl ((s.readPlace c.issuer.part pl 1).headD 0#8, l == .lost || s.placePoison pl 1), s)
      | (.fault k _, s) => (.inr (.bad 0x23 va k), s)
      | (_, s) => (.inr .held, s)

/-- Byte j of a command checked and read (R160, R241): the source first. -/
def State.copyByte (s : State) (u : Nat) (c : ECmd) (j : Nat) : ByteRes × State :=
  match s.copyValue u c j with
  | (.inr r, s) => (r, s)
  | (.inl (b, poison), s) =>
    let va := c.copyDest j
    match s.access (c.copyAgent u) { Acc.store 1 with align := 1 } va with
    | (.ok pl, s) => (.ok pl b poison, s)
    | (.fault k _, s) => (.bad 0x24 va k, s)
    | (_, s) => (.held, s)

/-- Bytes j to j + n − 1 checked and read, up to the first that fails or is held. -/
def State.copyBytes (s : State) (u : Nat) (c : ECmd) (j : Nat) : Nat → List (Place × Byte × Bool) × Option ByteRes × State
  | 0 => ([], none, s)
  | n + 1 =>
    match s.copyByte u c j with
    | (.ok pl b p, s) =>
      let (l, r, s) := s.copyBytes u c (j + 1) n
      ((pl, b, p) :: l, r, s)
    | (r, s) => ([], some r, s)

/-- Bytes gathered into writes: runs within one aligned 64-byte block (R239), each with its poison. -/
def copyRuns (dev : Place → Option Nat) : List (Place × Byte × Bool) → List (Place × List Byte × Bool)
  | [] => []
  | (pl, b, p) :: l =>
    match copyRuns dev l with
    | (pl', bs, p') :: rest =>
      match dev pl, dev pl' with
      | some k, some k' => if k + 1 = k' ∧ k / 64 = k' / 64 then (pl, b :: bs, p || p') :: rest else (pl, [b], p) :: (pl', bs, p') :: rest
      | _, _ => (pl, [b], p) :: (pl', bs, p') :: rest
    | [] => [(pl, [b], p)]

/-- The checked bytes of a piece written in ascending order (R238, R239). -/
def State.copyWrite (s : State) (i : Issuer) (l : List (Place × Byte × Bool)) : State :=
  (copyRuns (s.placeKey i.part) l).foldl (fun s x => s.agentStore i.part i.vf x.1 x.2.1 x.2.2) s

/-- The head command of requester r at a streamer, changed or removed. -/
def modHead (r : Nat) (f : ECmd → Option ECmd) : List ECmd → List ECmd
  | [] => []
  | c :: l => if c.issuer.unit = r then (match f c with | some d => d :: l | none => l) else c :: modHead r f l
/-- A streamer's queue and turn after work on the head of r. -/
def State.streamAfter (s : State) (u r left : Nat) (f : ECmd → Option ECmd) : State :=
  s.modUnit u fun x => { x with sq := modHead r f x.sq, turn := some (r, left) }

/-- Where a completion write must be performed before its requester's next command reads anything (R234). -/
def ECmd.doneScope (c : ECmd) : Scope := if c.fl.scope = .sys then .sys else .part
/-- The completion of a copy (R240, R241); the command stays until it is performed (R234). -/
def State.copyComplete (s : State) (u r : Nat) (c : ECmd) : State :=
  match s.completion u (c.copyAgent u).holder c with
  | (.done, s) => s.streamAfter u r 0 fun _ => if s.writesOut c.issuer.part c.doneScope then some { c with phase := .written, piece := c.pieces } else none
  | (.failed code, s) =>
    (s.engineFault u c.issuer 0x25 (c.reg 5) (BitVec.ofNat 64 (code % 256))).streamAfter u r 0 fun _ => none
  | (.held, s) => s.streamAfter u r 0 fun _ => some { c with phase := .complete, piece := c.pieces }

/-- A command whose routing byte was refused fails at that byte (R233, R241). -/
def State.copyRefused (s : State) (u r : Nat) (c : ECmd) (check : Nat) : State :=
  let fill := c.fn == fFILL
  (s.engineFault u c.issuer (if fill then 0x24 else 0x23) (c.reg (if fill then 1 else 0))
    (BitVec.ofNat 64 (check % 256))).streamAfter u r 0 fun _ => none
/-- One piece of the head command of a requester (R239, R241). -/
def State.copyPiece (s : State) (u r left : Nat) (c : ECmd) : State :=
  match c.refused with
  | some check => s.copyRefused u r c check
  | none =>
  let lo := 4096 * c.piece
  let n := min 4096 (c.total - lo)
  match s.copyBytes u c lo n with
  | (l, none, s) =>
    let s := ((s.linkDone c.issuer.vf (c.copyAgent u).holder).copyWrite c.issuer l).countCluster u 15 1
    let c' := { c with piece := c.piece + 1 }
    if c.pieces ≤ c.piece + 1 then s.copyComplete u r c' else s.streamAfter u r (left - 1) fun _ => some c'
  | (l, some (.bad code va check), s) =>
    let s := (s.linkDone c.issuer.vf (c.copyAgent u).holder).copyWrite c.issuer l
    (s.engineFault u c.issuer code va (BitVec.ofNat 64 (check % 256 + c.piece % 2 ^ 32 * 256))).streamAfter u r 0 fun _ => none
  | (_, some _, s) => s.streamAfter u r 0 some

/-- STREAMER_PIECE (R234, R239): the head command of the requester whose turn it is; none past the S of a switch (R288). -/
def execStreamerPiece (cl : Nat) (s : State) : Out :=
  match if (s.unit cl).gated then none else s.streamTurn cl with
  | none => .next s
  | some (r, left) =>
    match (s.unit cl).sq.find? fun c => c.issuer.unit == r with
    | none => .next s
    | some c =>
      if c.phase = .written then .next (if s.writesOut c.issuer.part c.doneScope then s else s.streamAfter cl r 0 fun _ => none)
      else if s.engineStop c then .next s
      else if c.pieces ≤ c.piece then .next (s.copyComplete cl r c) else .next (s.copyPiece cl r left c)

end Sys2Proof.Machine
end

