-- ==== Sys2Proof/Machine/Drain.lean ====
section
/-! DEFINITION. Drain programs (R214, R215, R218-R227): the image, the descriptor, the micro-ops, the rows, and the events
of the matrix engine. -/

namespace Sys2Proof.Machine

/-- Fields of a micro-op (R221). -/
def mop (w : Nat) : Nat := w / 2 ^ 27
def mdd (w : Nat) : Nat := w / 2 ^ 24 % 8
def msA (w : Nat) : Nat := w / 2 ^ 20 % 16
def msB (w : Nat) : Nat := w / 2 ^ 16 % 16
def mz (w : Nat) : Nat := w % 2 ^ 16

/-- A word of an image that is no DEND breaks a condition of R224. -/
def mopBad (w : Nat) : Bool :=
  let a := msA w
  let b := msB w
  let z := mz w
  match mop w with
  | 0 | 1 | 3 | 4 => a != 15 && b != 15 && z != 0
  | 2 | 5 | 10 => a == 15 || b == 15 || z % 4096 != 0 || z / 4096 == 15
  | 6 | 12 => a == 15 || b != 0 || decide (3 < z)
  | 7 => a == 15 || b != 0 || z / 256 != 0 || (z / 8) % 2 != 0
  | 8 | 9 => b != 0 || (a != 15 && z != 0)
  | 11 => a == 15 || b != 0 || decide (7 < z)
  | 13 | 14 | 15 => a == 15 || b != 0 || mdd w != 0 || decide (4 < z) || (z == 4 && a != 0)
  | _ => true

/-- The words of a 64-byte image. -/
def imageWords (x : Vec) : List Nat := (List.range 16).map (elem 32 x)
/-- The first bad word of an image, 16 when no word is DEND, none when DPLOAD accepts it (R224). -/
def imageBad : List Nat → Nat → Option Nat
  | [], _ => some 16
  | w :: l, i =>
    if mop w = 16 then
      if w ≠ 16 * 2 ^ 27 then some i else (l.findIdx? fun x => x ≠ 0).map fun j => i + 1 + j
    else if mopBad w then some i else imageBad l (i + 1)

/-- What the read of a DPLOAD's image gives (R218): it waits, perhaps for a page request; no valid image, with its DETAIL; an image. -/
inductive ImageRes | held (page : Bool) | bad (det : Nat) | good (x : Vec) deriving DecidableEq, Repr
/-- The image read and judged (R218, R224). -/
def State.imageOf (s : State) (u : Nat) (c : ECmd) : ImageRes × State :=
  let h : Holder := .engine u (8 + c.slot)
  match s.access (c.issuer.agent u h) (Acc.vload 64) c.src with
  | (.ok pl, s) =>
    let (l, s) := s.linkRead c.issuer.part c.issuer.vf h pl 64
    if l = .held then (.held false, s)
    else if l != .data || s.placePoison pl 64 then (.bad 0xff, s.linkDone c.issuer.vf h)
    else
      let s := s.linkDone c.issuer.vf h
      let x : Vec := BitVec.ofNat 512 (leNat (s.readPlace c.issuer.part pl 64))
      match imageBad (imageWords x) 0 with
      | some w => (.bad w, s)
      | none => (.good x, s)
  | (.fault _ _, s) => (.bad 0xff, s)
  | (.page, s) => (.held true, s)
  | (_, s) => (.held false, s)
/-- The PAGE_WAIT notice of a DPLOAD whose image read waits for a page request (R218, R330). -/
def State.dploadNotice (s : State) (u : Nat) (c : ECmd) : State :=
  s.emit (unitBulk u) c.issuer.part c.issuer.faultLine { c.issuer.record 0x12 c.src 0#64 with notice := true } 1
/-- The wellhead slot takes a valid image, or its valid bit is cleared (R218). -/
def Clus.setProgram (u : Clus) (slot : Nat) (x : Option Vec) : Clus :=
  match x with
  | some x => { u with wellhead := fput u.wellhead slot x, whValid := fset false u.whValid slot true }
  | none => { u with whValid := fset false u.whValid slot false }
/-- DPLOAD's image arrives (R218): written to its slot, or the slot's valid bit cleared and 0x44. -/
def State.dploadRead (s : State) (u n : Nat) (c : ECmd) : State :=
  let asked := (s.bulk (unitBulk u)).reqs.any fun q => q.holders.contains (.engine u (8 + c.slot))
  match s.imageOf u c with
  | (.held page, s) => if page && !asked then s.dploadNotice u c else s
  | (.bad det, s) => (s.modUnit u fun x => x.setProgram c.slot none).mqAbort u n c 0x44 c.src (BitVec.ofNat 64 (det + c.slot * 2 ^ 16))
  | (.good x, s) => (s.modUnit u fun y => y.setProgram c.slot (some x)).mqComplete u n c

/-- DPLOAD_IMAGE_READ (R218). -/
def execDploadImageRead (cl n : Nat) (s : State) : Out :=
  match (s.unit cl).mq[n]? with
  | some c => if c.fn = fDPLOAD ∧ c.phase = .image then .next (s.dploadRead cl n c) else .next s
  | none => .next s

/-- Fields of a drain descriptor (R220). -/
def dWord (d : Vec) (i : Nat) : Nat := elem 64 d i
def dPbase (d : Vec) : Nat := dWord d 4 % 2 ^ 22
def dCbase (d : Vec) : Nat := dWord d 4 / 2 ^ 32 % 2 ^ 22
def dTbase (d : Vec) : Nat := dWord d 5 % 2 ^ 22
def dTstride (d : Vec) : Nat := dWord d 5 / 2 ^ 32 % 2 ^ 22
/-- A reserved bit is set, or PBASE or CBASE is out of its limits (R220). -/
def descBad (d : Vec) : Bool :=
  dWord d 1 / 2 ^ 32 != 0 || dWord d 3 / 2 ^ 32 != 0 || dWord d 4 / 2 ^ 22 % 2 ^ 10 != 0 || dWord d 4 / 2 ^ 54 != 0 ||
  dWord d 5 / 2 ^ 22 % 2 ^ 10 != 0 || dWord d 5 / 2 ^ 54 != 0 || dWord d 6 != 0 || dWord d 7 != 0 ||
  dPbase d % 64 != 0 || dCbase d % 64 != 0 || decide (2 ^ 22 < dPbase d + 1024) || decide (2 ^ 22 < dCbase d + 512)

/-- A drain stops on a fault (R226, R227): the lock cleared, FAULT, the cursor, PROG and the saved drain set, the record
written, the entry, if it holds one, freed with it (R201). -/
def State.drainFault (s : State) (u : Nat) (c : ECmd) (row blk code : Nat) (addr detail : Word) : State :=
  let s := s.modUnit u fun x =>
    let x := x.setTile c.tile fun _ => { lock := false, fault := true, crow := row, cblk := blk, prog := c.prog }
    { x with run := none, saved := fput x.saved c.tile c }
  match (s.unit u).mq.findIdx? fun y => y.phase == .drain with
  | some n => s.mqRecord u n c code addr detail
  | none => s.engineFault u c.issuer code addr detail

/-- 32-bit words of the tarn. -/
def State.tarnWords (s : State) (u off n : Nat) : List W32 :=
  (List.range n).map fun i => BitVec.ofNat 32 (leNat (s.tarnBytes u (off + 4 * i) 4))

/-- A drain takes the drain unit at a row and block (R203, R215, R218, R220): the lock set, the program copied, the
descriptor, the parameter vectors and the coefficient tables read. A poisoned block of any of them stops it (log 20). -/
def State.drainStart (s : State) (u : Nat) (c : ECmd) (row blk : Nat) : State :=
  let s := s.modUnit u fun x => x.setTile c.tile fun y => { y with lock := true, fault := false }
  let off := c.fld 4 0 22
  let stop (k : Nat) : State :=
    s.drainFault u c row blk 0x44 (BitVec.ofNat 64 off) (BitVec.ofNat 64 (k + c.tile * 256 + c.prog * 2 ^ 16))
  if fget false (s.unit u).whValid c.prog = false then stop 0xfe
  else
    let d := s.mem.block (tarnKey u off)
    if (s.tarnPoison u off 64).isSome || descBad d || (s.tarnPoison u (dPbase d) 1024).isSome ||
      (s.tarnPoison u (dCbase d) 512).isSome then stop 0xff
    else s.modUnit u fun x =>
      { x with run := some { cmd := c, prog := fget 0#512 x.wellhead c.prog, desc := d, params := s.tarnWords u (dPbase d) 256,
                             coefs := s.tarnWords u (dCbase d) 128, row := row, blk := blk } }

/-- What a program computes on one block (R219): registers d0-d7 by element, q, and the stores made: column, target, offset
from the row's start, bytes, value. -/
structure DrainBlk where
  d : FMap (List Nat)
  q : Nat
  out : List (Nat × Nat × Nat × Nat × Nat)
  deriving DecidableEq, Repr

/-- A number as FP32. -/
def f32OfNat (n : Nat) : Nat := (fp32.encode .rne (Fv.ofInt n)).1
/-- The values of a source code (R221), with z for code 15. -/
def DrainBlk.src (x : DrainBlk) (params : List W32) (row : Nat) (cols : List Nat) (code z : Nat) : List Nat :=
  if code < 8 then fget (cols.map fun _ => 0) x.d code
  else if code < 12 then cols.map fun j => (params.getD (64 * (code - 8) + j) 0#32).toNat
  else if code = 12 then cols.map fun _ => f32OfNat row
  else if code = 13 then cols.map f32OfNat
  else if code = 14 then cols.map fun _ => 0
  else cols.map fun _ => z * 2 ^ 16

/-- FP32 operations of the micro-ops: one rounding, rne, no condition kept (R219). -/
def dAdd (x y : Nat) : Nat := (fp32.op2 .rne (Fv.add .rne) x y).1
def dMul (x y : Nat) : Nat := (fp32.op2 .rne Fv.mul x y).1
def dFma (x y w : Nat) : Nat := (fp32.fma .rne (fp32.value x) (fp32.value y) (fp32.value w)).1
def dMax (x y : Nat) : Nat := fp32.minmax Fv.max x y
def dMin (x y : Nat) : Nat := fp32.minmax Fv.min x y
def dExp2 (x : Nat) : Nat := (fp32.op1 .rne Fv.exp2 x).1
def dRcp (x : Nat) : Nat := (fp32.op1 .rne (fun v => Fv.div (.fin false 1 0) v) x).1
/-- A signed integer saturated, as int32 bits. -/
def dClip (lo hi : Int) (x : Nat) : Nat := wrap 32 (max lo (min hi (signed 32 x)))
def dSat (w x : Nat) : Nat :=
  match w with | 0 => dClip (-128) 127 x | 1 => dClip (-8) 7 x | 2 => dClip (-32768) 32767 x | _ => dClip 0 255 x
/-- FP32 to an integer of the range (R88), as int32 bits. -/
def dInt (lo hi : Int) (x : Nat) : Nat := wrap 32 ((fp32.value x).toInt .rne lo hi).1
/-- DCVT's conversions: the result in the low bits, the rest zero (R222). -/
def dCvt (c x : Nat) : Nat :=
  match c with
  | 0 => (fp32.encode .rne (Fv.ofInt (signed 32 x))).1
  | 1 => dInt (-(2 : Int) ^ 31) ((2 : Int) ^ 31 - 1) x
  | 2 => (cvtFF fp32 bf16 x).1
  | 3 => (cvtFF fp32 fp16 x).1
  | 4 => (cvtFF fp32 e4m3 x).1
  | 5 => (cvtFF fp32 e5m2 x).1
  | 6 => dInt (-128) 127 x % 2 ^ 8
  | _ => dInt (-8) 7 x % 2 ^ 4
/-- DPOLY: Horner's rule over the coefficients of a table, one rounding a step (R222). -/
def dPoly (coefs : List W32) (t n x : Nat) : Nat :=
  let c (i : Nat) : Nat := (coefs.getD (8 * t + i) 0#32).toNat
  (List.range n).foldl (fun p i => dFma p x (c (n - 1 - i))) (c n)
/-- DSEL's choice: the sign bit is clear and x is no NaN. -/
def dPos (x : Nat) : Bool := decide (x < 2 ^ 31) && !(fp32.value x).isNan

/-- The stores of a store micro-op (R223): target t, size code c, the values by column; one of two columns, or of the block, stands at
its first. -/
def drainStores (t c q blk : Nat) (cols xs : List Nat) : List (Nat × Nat × Nat × Nat × Nat) :=
  let at_ (i : Nat) : Nat := xs.getD i 0
  match c with
  | 3 => (List.range (cols.length / 2)).map fun i =>
      (2 * i, t, (cols.getD (2 * i) 0) / 2, 1, at_ (2 * i) % 16 + at_ (2 * i + 1) % 16 * 16)
  | 4 => [(0, t, blk, 1, q)]
  | _ => (List.range cols.length).map fun i => (i, t, cols.getD i 0 * 2 ^ c, 2 ^ c, at_ i % 2 ^ (8 * 2 ^ c))

/-- Two and three lists combined element by element. -/
def zip2 (f : Nat → Nat → Nat) (xs ys : List Nat) : List Nat := (xs.zip ys).map fun p => f p.1 p.2
def zip3 (f : Nat → Nat → Nat → Nat) (xs ys zs : List Nat) : List Nat := ((xs.zip ys).zip zs).map fun p => f p.1.1 p.1.2 p.2

/-- One micro-op on a block (R222). -/
def DrainBlk.step (x : DrainBlk) (r : DrainRun) (row blk : Nat) (cols : List Nat) (w : Nat) : DrainBlk :=
  let z := mz w
  let a := x.src r.params row cols (msA w) z
  let b := x.src r.params row cols (msB w) z
  let c := x.src r.params row cols (z / 4096) 0
  let put (l : List Nat) : DrainBlk := { x with d := fput x.d (mdd w) l }
  match mop w with
  | 0 => put (zip2 dAdd a b)
  | 1 => put (zip2 dMul a b)
  | 2 => put (zip3 dFma a b c)
  | 3 => put (zip2 dMax a b)
  | 4 => put (zip2 dMin a b)
  | 5 => put (zip3 (fun p q w => dMin (dMax p q) w) a b c)
  | 6 => put (a.map (dSat (z % 4)))
  | 7 => put (a.map (dPoly r.coefs (z / 16 % 16) (z % 8)))
  | 8 => put (a.map dExp2)
  | 9 => put (a.map dRcp)
  | 10 => put (zip3 (fun p q w => if dPos p then q else w) a b c)
  | 11 => put (a.map (dCvt (z % 8)))
  | 12 =>
    let l := a.map fp32.value
    let (cs, sb, _) := q4Quant (z % 4) (l ++ (List.range (32 - l.length)).map fun _ => Fv.fin false 0 0)
    { put (cs.take l.length) with q := sb }
  | 13 => { x with out := x.out ++ drainStores 0 (z % 8) x.q blk cols a }
  | 14 => { x with out := x.out ++ drainStores 1 (z % 8) x.q blk cols a }
  | 15 => { x with out := x.out ++ drainStores 2 (z % 8) x.q blk cols a }
  | _ => x

/-- The stores of a block in ascending column order, those of one column as the program makes them (R225). -/
def byColumn (l : List (Nat × Nat × Nat × Nat × Nat)) : List (Nat × Nat × Nat × Nat) :=
  (List.range 32).flatMap fun j => (l.filter fun x => x.1 == j).map fun x => x.2
/-- The program of a drain run on a block of a row, up to DEND (R219). -/
def DrainRun.block (r : DrainRun) (u : Clus) (row blk : Nat) : List (Nat × Nat × Nat × Nat) :=
  let cols := (List.range (min 32 (r.cmd.n - 32 * blk))).map fun j => 32 * blk + j
  let x : DrainBlk := { d := [(0, cols.map fun j => (u.elem r.cmd.tile row j).toNat)], q := 0, out := [] }
  byColumn (((imageWords r.prog).takeWhile fun w => mop w ≠ 16).foldl (fun x w => x.step r row blk cols w) x).out

/-- Address of a store of a row (R223), or the denied one of a tarn offset of 4 MiB or more. -/
def State.drainAddr (s : State) (u : Nat) (r : DrainRun) (row : Nat) (x : Nat × Nat × Nat × Nat) : Word × Bool :=
  let line (i : Nat) : Word := BitVec.ofNat 64 (dWord r.desc i) +
    BitVec.ofNat 64 row * (BitVec.ofNat 32 (dWord r.desc (i + 1))).signExtend 64 + BitVec.ofNat 64 x.2.1
  if x.1 = 0 then (line 0, false)
  else if x.1 = 1 then (line 2, false)
  else
    let o := dTbase r.desc + row * dTstride r.desc + x.2.1
    (BitVec.ofNat 64 (0xfffe000000000000 + (s.part r.cmd.issuer.part).flatCl u * 2 ^ 23 + o), decide (2 ^ 22 ≤ o))

/-- A store of a row after its checks: block, address, bytes, and the outcome of R160. -/
structure RowStore where
  blk : Nat
  va : Word
  bytes : List Byte
  res : Ares
  deriving DecidableEq, Repr

/-- The stores of a row checked in order (R223). -/
def State.rowChecks (s : State) (u : Nat) (r : DrainRun) (row : Nat) : List (Nat × Nat × Nat × Nat × Nat) → List RowStore × State
  | [] => ([], s)
  | x :: l =>
    let (va, denied) := s.drainAddr u r row x.2
    let (res, s) := if denied then (Ares.fault 0x16 0#64, s)
      else s.access (r.cmd.issuer.agent u (.drain u)) (Acc.store x.2.2.2.1) va
    let (rest, s) := s.rowChecks u r row l
    ({ blk := x.1, va := va, bytes := leBytes x.2.2.2.1 x.2.2.2.2, res := res } :: rest, s)

/-- A store that cannot go on yet. -/
def RowStore.held (x : RowStore) : Bool :=
  match x.res with
  | .ok _ => false
  | .fault _ _ => false
  | _ => true
/-- A store that failed, as block, address, code. -/
def RowStore.failed (x : RowStore) : Option (Nat × Nat × Nat) :=
  match x.res with
  | .fault c _ => some (x.blk, x.va.toNat, c)
  | _ => none
/-- The stores of a row that passed their checks, made in order (R225). -/
def State.rowWrite (s : State) (i : Issuer) (l : List RowStore) : State :=
  l.foldl (fun s x => match x.res with
    | .ok pl => s.agentStore i.part i.vf pl x.bytes false
    | _ => s) s
/-- The cursor's failed store (R226, R227): the lowest block with one, and there the lowest address. -/
def worstStore : List (Nat × Nat × Nat) → Option (Nat × Nat × Nat)
  | [] => none
  | x :: l => match worstStore l with
    | none => some x
    | some y => if y.1 < x.1 ∨ (y.1 = x.1 ∧ y.2.1 < x.2.1) then some y else some x

/-- The completion write of a resumed drain, which holds no queue entry (R215). -/
def State.resumedComplete (s : State) (u : Nat) (c : ECmd) : State :=
  match s.completion u (.engine u c.tile) c with
  | (.done, s) => s.modUnit u fun x => x.lockFor c false
  | (.failed code, s) =>
    (s.engineFault u c.issuer 0x25 (c.reg 5) (BitVec.ofNat 64 (code % 256 + c.tile * 256))).modUnit u fun x => x.lockFor c false
  | (.held, s) => s.modUnit u fun x => { x with resumed := x.resumed ++ [{ c with phase := .complete }] }

/-- A drain has stored its last row: the unit is free, the completion is written (R214, R215, R225). -/
def State.drainFinish (s : State) (u : Nat) (c : ECmd) : State :=
  let s := s.modUnit u fun x => { x with run := none }
  match (s.unit u).mq.findIdx? fun y => y.phase == .drain with
  | some n => s.mqComplete u n c
  | none => s.resumedComplete u c

/-- One row of the drain in progress (R219, R223, R225, R226): the rows before it are performed at the command's scope. -/
def State.drainRow (s : State) (u : Nat) (r : DrainRun) : State :=
  if s.writesOut r.cmd.issuer.part r.cmd.fl.scope then s else
  let x := s.unit u
  let blks := (List.range ((r.cmd.n + 31) / 32)).drop r.blk
  let outs := blks.flatMap fun b => (r.block x r.row b).map fun o => (b, o)
  let (l, s) := s.rowChecks u r r.row outs
  if l.any RowStore.held then s
  else
    let s := (s.rowWrite r.cmd.issuer l).clearRefused (unitBulk u) (.drain u)
    match worstStore (l.filterMap RowStore.failed) with
    | some (b, a, code) =>
      s.drainFault u r.cmd r.row b 0x43 (BitVec.ofNat 64 a)
        (BitVec.ofNat 64 (code % 256 + r.cmd.tile * 256 + r.row * 2 ^ 11 + b * 2 ^ 17))
    | none =>
      let s := s.countCluster u 14 1
      if r.cmd.m ≤ r.row + 1 then s.drainFinish u r.cmd
      else s.modUnit u fun y => { y with run := some { r with row := r.row + 1, blk := 0 } }

/-- DRAIN_ROW (R225); none past the S of a switch (R288). -/
def execDrainRow (cl : Nat) (s : State) : Out :=
  match (s.unit cl).run with
  | some r => .next (if s.engineStop r.cmd then s else s.drainRow cl r)
  | none => .next s

/-- The resumed drain takes the drain unit, once no command holds its tile's lock (R73, R215). -/
def State.resumeStart (s : State) (u : Nat) : State :=
  let x := s.unit u
  match x.nextResumed with
  | none => s
  | some c =>
    let t := x.tile c.tile
    if x.run.isSome || t.lock || s.engineStop c then s
    else
      (s.modUnit u fun y => { y with resumed := y.resumed.filter fun z => !(z.tile == c.tile && z.phase == .waiting) }).drainStart
        u { c with phase := .drain } t.crow t.cblk

/-- MATRIX_COMMAND_START (R203, R215): command n of the queue starts, or its drain does once its arithmetic is done; any n
beyond the queue is the resumed drain. None starts once a switch has come to its S (R288). -/
def execMatrixCommandStart (cl n : Nat) (s : State) : Out :=
  let x := s.unit cl
  match x.mq[n]? with
  | none => .next (s.resumeStart cl)
  | some c =>
    if s.engineStop c then .next s
    else if c.phase = .drainWait then
      if x.drainFree && !x.dploadAhead n c then
        .next ((s.modUnit cl fun y => y.modMq n fun z => { z with phase := .drain }).drainStart cl { c with phase := .drain } 0 0)
      else .next s
    else if x.mayStart n c = false then .next s
    else if c.fn = fDPLOAD then .next (s.modUnit cl fun y => y.modMq n fun z => { z with phase := .image })
    else if c.fn = fMDRAIN then
      .next ((s.modUnit cl fun y => y.modMq n fun z => { z with phase := .drain }).drainStart cl { c with phase := .drain } 0 0)
    else .next (s.arrayStart cl n c)

/-- Completion writes and fault records that wait are tried again, the last entry first (R201, R227). -/
def State.retryMq (s : State) (u : Nat) : Nat → State
  | 0 => s
  | n + 1 =>
    let s := match (s.unit u).mq[n]? with
      | some c =>
        if c.phase = Phase.complete then s.mqComplete u n c
        else match c.phase, c.fault with
          | .faulted, some (code, addr, detail) => s.mqRecord u n c code addr detail
          | _, _ => s
      | none => s
    s.retryMq u n
def State.retryResumed (s : State) (u : Nat) : State :=
  let done (c : ECmd) : Bool := c.phase == Phase.complete
  let l := (s.unit u).resumed.filter done
  l.foldl (fun s c => s.resumedComplete u c) (s.modUnit u fun x => { x with resumed := x.resumed.filter fun c => !done c })

/-- MATRIX_COMMAND_COMPLETE (R212, R213, R227): held completion writes try again, and the array command in progress
completes; a product in progress at the S of a switch stops there (R229, R288). -/
def execMatrixCommandComplete (cl : Nat) (s : State) : Out :=
  let s := (s.retryMq cl (s.unit cl).mq.length).retryResumed cl
  match (s.unit cl).mq.findIdx? fun c => c.phase == .array with
  | none => .next s
  | some n => match (s.unit cl).mq[n]? with
    | some c => .next (if c.isMma && s.engineStop c then s else s.arrayRun cl n c)
    | none => .next s

end Sys2Proof.Machine
end

