-- ==== Sys2Proof/Machine/Switch.lean ====
section
/-! DEFINITION. The gang switch (R282-R292): PREEMPT, the deadline, the save, the restore. -/

namespace Sys2Proof.Machine

/-- The contexts of a VF that a switch saves (R286): contexts 1-15 of the partition's barrel cores. -/
def State.vfCtxs (s : State) (p vf : Nat) : List (Nat × Nat) :=
  s.cores.flatMap fun x =>
    if (s.part p).bulks.contains (x.1 / 32) && !isDeep x.1 then
      x.2.ctxs.filterMap fun y =>
        if y.2.bound ∧ y.1 ≠ 0 ∧ (s.recOf y.2.tid).vf = vf then some (x.1, y.1) else none
    else []

/-- A context as it is saved (R287): an access held by PAGE_WAIT, an ACCRD or a full/empty instruction being retried is
abandoned and executes again, with a fresh count; a cooperative arrival is over. -/
def Ctx.checkpoint (c : Ctx) : Ctx :=
  let w : Wait := match c.wait with
    | .oncePost => .oncePost
    | .g31 => .g31
    | _ => .none_
  { c with wait := w, feTries := 0, scOpen := false, scAt := none, noticed := none, begun := false }

/-- A command of a VF. -/
def ECmd.ofVf (vf : Nat) (c : ECmd) : Bool := c.issuer.vf == vf
/-- A command of some VFs names a tile: queued, running, resumed, or as its saved drain (R73, R217). -/
def Clus.names (u : Clus) (f : ECmd → Bool) (t : Nat) : Bool :=
  let on (c : ECmd) : Bool := f c && c.tile == t
  (u.mq.any fun c => c.hasTile && on c) || u.resumed.any on || (u.run.any fun r => on r.cmd) || u.saved.any fun x => on x.2
/-- What a cluster saves for a VF (R229, R246, R289): with its tiles, but for the status of those that another VF's commands name. -/
def Clus.saveFor (u : Clus) (vf : Nat) : Clus :=
  let own := ECmd.ofVf vf
  { Clus.empty with
    mq := u.mq.filter own, tiles := u.tiles, stat := u.stat.filter fun x => !u.names (fun c => !own c) x.1,
    saved := u.saved.filter fun x => own x.2,
    resumed := u.resumed.filter own, run := u.run.bind fun r => if own r.cmd then some r else none,
    wellhead := u.wellhead, whValid := u.whValid, outq := u.outq.filter own, flying := u.flying.filter own,
    sq := u.sq.filter own, gates := u.gates.filter fun g => own g.cmd }
/-- What stays in the cluster: commands of other VFs with the status of their tiles, and the tiles' contents (R73). The streamer's
round begins anew (log 95). -/
def Clus.leaveFor (u : Clus) (vf : Nat) : Clus :=
  let other (c : ECmd) : Bool := !ECmd.ofVf vf c
  { u with
    mq := u.mq.filter other, stat := u.stat.filter fun x => u.names other x.1, saved := u.saved.filter fun x => other x.2,
    resumed := u.resumed.filter other, run := u.run.bind fun r => if other r.cmd then some r else none,
    wellhead := [], whValid := [], outq := u.outq.filter other, flying := u.flying.filter other, sq := u.sq.filter other,
    turn := none, gates := u.gates.filter fun g => other g.cmd }
/-- A cluster with a VF's saved state put back: what the VF had queued comes back whole, behind what others have queued meanwhile,
also where that is more than the queue's places (R246; log 94). -/
def Clus.restore (u x : Clus) : Clus :=
  { u with
    mq := u.mq ++ x.mq, tiles := x.tiles, stat := x.stat.foldl (fun m y => fput m y.1 y.2) u.stat, saved := x.saved ++ u.saved,
    resumed := u.resumed ++ x.resumed, run := u.run.or x.run, wellhead := x.wellhead, whValid := x.whValid,
    outq := u.outq ++ x.outq, flying := u.flying ++ x.flying, sq := u.sq ++ x.sq, gates := u.gates ++ x.gates }
/-- The array and drain units that the saved state needs are idle. -/
def Clus.roomFor (u x : Clus) : Bool :=
  (u.run.isNone || x.run.isNone) && (u.arrayIdle || x.arrayIdle)

/-- The engines of a cluster come to their boundaries (R229): MZERO, MLOAD and DPLOAD in progress complete; MMA and MMAG stop at the
end of their chunk, once. -/
def State.finishShort (s : State) (u vf : Nat) (halted : Bool) : Nat → State
  | 0 => s
  | n + 1 =>
    let s := match (s.unit u).mq[n]? with
      | some c =>
        if ECmd.ofVf vf c = false then s
        else if c.phase = Phase.array then (if c.isMma then (if halted then s else s.mmaStop u n c) else s.arrayRun u n c)
        else if c.phase = Phase.image then s.dploadRead u n c
        else s
      | none => s
    s.finishShort u vf halted n

/-- A record's bound state is saved with its VF (R20, R289). -/
def Rec.saveWithVf (r : Rec) : Rec := { r with saved := true, place := none }
/-- One context leaves its core for the save area. -/
def State.saveCtx (s : State) (k c : Nat) : State :=
  let t := (s.ctx k c).tid
  (s.modRec t Rec.saveWithVf).release k c

/-- The dirty units of a core's L1 leave it for the save engine, which owns them until it has written them home (R154). -/
def State.cleanCore (s : State) (k : Nat) : State :=
  ((s.core k).l1.filter fun x => x.2 == .m || x.2 == .o).foldl (fun s x =>
    (s.l1Leave k x.1).modBulk (s.l1Home k x.1) fun b => { b with saving := fput b.saving x.1 true }) s
/-- Every save engine of a partition has written its units home (R154, R290). -/
def State.saveDone (s : State) (p : Nat) : State :=
  (s.part p).bulks.foldl (fun s b => s.modBulk b fun x => { x with saving := [] }) s

/-- The contents of the save area of a VF become the device's (R289, log 11); its full/empty bits do not change (R146). -/
def State.saveArea (s : State) (p vf : Nat) : State :=
  let x := s.part p
  let base := (s.desc p 0x88).toNat
  let rix := vfRix (s.vfEntry p vf)
  (List.range x.n).foldl (fun s r => let k := x.saveKey base rix r; s.scramble k (k + 2 ^ 22)) s

/-- The TS at which the VF that is switched out stood still (R285). -/
def State.stoodAt (s : State) (p : Nat) : Nat :=
  match (s.part p).switch.bind fun w => w.begun with
  | some t0 => s.ts - (s.tsOf p + 2 ^ 64 - t0) % 2 ^ 64
  | none => s.ts
/-- The save of a VF (R287-R289). -/
def State.saveVf (s : State) (p vf : Nat) : State :=
  let us := (s.units.map fun x => x.1).filter fun u => (s.part p).bulks.contains (u / 8)
  let s := s.forgetReads p vf false
  let cs := s.vfCtxs p vf
  let sends := s.cores.flatMap fun x =>
    if (s.part p).bulks.contains (x.1 / 32) then (x.2.sendBuf.filter (savesSend vf)).map fun e => (x.1, e) else []
  let gone (q : Nat × Nat × Post) : Bool := cs.contains (q.1, q.2.1)
  let v : SavedVf :=
    { vf := vf, ctxs := cs.map fun x => (x.1, x.2, (s.ctx x.1 x.2).checkpoint), units := us.map fun u => (u, (s.unit u).saveFor vf),
      sends := sends, floods := ((s.part p).launches.filter fun l => l.vf == vf).map fun l => (l.id, l.floods),
      posts := us.flatMap fun u => ((s.unit u).posts.filter gone).map fun q => (u, q), since := s.stoodAt p }
  let s := us.foldl (fun s u => s.modUnit u fun x => { x.leaveFor vf with posts := x.posts.filter fun q => !gone q }) s
  let drop (e : SendEntry) : Bool := !savesSend vf e
  let leave (x : Nat × Core) : Nat × Core :=
    if (s.part p).bulks.contains (x.1 / 32) then
      (x.1, { x.2 with sendBuf := x.2.sendBuf.filter drop })
    else x
  let s := { s with cores := s.cores.map leave }
  let s := ((s.cores.map fun x => x.1).filter fun k => (s.part p).bulks.contains (k / 32) && !isDeep k).foldl State.cleanCore s
  let s := cs.foldl (fun s x => s.saveCtx x.1 x.2) s
  let halt (l : Launch) : Launch := if l.vf = vf then { l with floods := [] } else l
  let s := s.modPart p fun (x : Part) =>
    { x with
      running := none
      savedVfs := (x.savedVfs.filter fun y => decide (y.vf ≠ vf)) ++ [v]
      launches := x.launches.map halt }
  s.saveArea p vf

/-- Every record of a partition changed (R16). -/
def State.mapRecs (s : State) (p : Nat) (f : Rec → Rec) : State :=
  let g (r : Rec) : Rec := if r.part = p ∧ r.state ≠ .free then f r else r
  let onCore (x : Nat × Core) : Nat × Core := (x.1, { x.2 with slots := x.2.slots.map fun y => (y.1, g y.2) })
  let onBulk (x : Nat × Bulk) : Nat × Bulk := (x.1, { x.2 with shallows := x.2.shallows.map g })
  { s with cores := s.cores.map onCore, bulks := s.bulks.map onBulk }

/-- A record's wait goes on when its VF runs again (R250, R282): the time its VF stood still does not count. -/
def Rec.resumeAge (stop now : Nat) (r : Rec) : Rec := { r with since := if r.since < stop then now - (stop - r.since) else now }

/-- A VF becomes the running one (R282, R290): what was saved of it is restored, its messages first. -/
def State.runVf (s : State) (p vf : Nat) : State :=
  let saved := (s.part p).savedVfs.find? fun v => v.vf == vf
  let stop := match saved with | some v => v.since | none => 0
  let now := s.ts
  let s := s.mapRecs p fun r => if r.vf = vf ∧ r.deep = false then r.resumeAge stop now else r
  let s := s.modPart p fun x => { x with running := some vf, next := none, savedVfs := x.savedVfs.filter fun (y : SavedVf) => decide (y.vf ≠ vf) }
  match saved with
  | none => s
  | some v =>
    let s := v.posts.foldl (fun s q => s.modUnit q.1 fun u => { u with posts := u.posts ++ [q.2] }) s
    let go (l : Launch) : Launch := { l with floods := ((v.floods.find? fun y => y.1 == l.id).map fun y => y.2).getD l.floods }
    let s := s.modPart p fun x => { x with launches := x.launches.map go }
    let s := v.units.foldl (fun s u => s.modUnit u.1 fun x => x.restore u.2) s
    let s := v.sends.foldl (fun s e => s.modCore e.1 fun c =>
      { c with sendBuf := c.sendBuf ++ [{ e.2 with first := e.2.first.map fun t => t + (now - v.since) }] }) s
    v.ctxs.foldl (fun s x =>
      let s := s.modCtx x.1 x.2.1 fun y => { x.2.2 with readyAt := (s.core x.1).cycle, last := y.last }
      s.modRec x.2.2.tid fun r => { r with saved := false, place := some (x.1, x.2.1) }) s

/-- The restore of a VF may take place: every value of its producers has arrived (R287), and its units are free. -/
def State.mayRun (s : State) (p vf : Nat) : Bool :=
  match (s.part p).savedVfs.find? fun v => v.vf == vf with
  | none => true
  | some v =>
    (v.ctxs.all fun x => x.2.2.inflight.all fun q => !q.deliverable && match q.st with | .link _ _ _ => false | _ => true) &&
    (v.units.all fun u => (s.unit u.1).roomFor u.2)
/-- A VF that waits to be the running one is it once its restore may take place (R282, R287). -/
def State.tryRun (s : State) (p : Nat) : State :=
  match (s.part p).next, (s.part p).running with
  | some v, none => if (s.part p).switch.all (fun w => w.begun.isNone) && s.mayRun p v then s.runVf p v else s
  | _, _ => s

/-- The words of a status line written as releases at sys scope, word 0x00 last (R290): whether it is done; a write that fails is
dropped. -/
def State.statusLine (s : State) (g : Agent) (line : Word) (ws : List Word) : Bool × State :=
  match s.access g (Acc.store 8) line with
  | (.ok pl, s) =>
    if s.writesOut g.part .sys then (false, s) else
    let put (s : State) (i : Nat) : State := s.agentStore g.part g.vf (pl.shift (8 * i)) (leBytes 8 (ws.getD i 0#64).toNat) false
    (true, put ((List.range (ws.length - 1)).foldl (fun s i => put s (i + 1)) s) 0)
  | (.fault _ _, s) => (true, s)
  | (_, s) => (false, s)
/-- The agent that writes a switch's status line: the caller's VF and bulkhead. -/
def Switch.agent (w : Switch) (p : Nat) (h : Holder) : Agent :=
  { part := p, vf := w.callerVf, bulk := w.bulk, unit := 8 * w.bulk, deep := false, engine := true, tid := 0#32, holder := h }
/-- The counts word. -/
def Switch.counts (w : Switch) : Word := BitVec.ofNat 64 (w.arrived % 2 ^ 32 + w.forced % 2 ^ 32 * 2 ^ 32)

/-- A context's instruction is an SC operation that has its stamp (R193). -/
def Ctx.scStamp (x : Ctx) : Bool := x.scAt.isSome || match x.wait with | .scWindow _ _ _ => true | _ => false
/-- An instruction of a context has issued and completes before the save (R287): it waits, or stops. One that meets PAGE_WAIT, an
ACCRD that gets retries and a full/empty instruction that retries or is parked are abandoned. -/
def State.withinWhole (s : State) (k c : Nat) : Bool :=
  let x := s.ctx k c
  x.wait == .answer || x.wait == .grain || x.stop.isSome || x.scStamp ||
    (x.begun && x.noticed.isNone && x.feTries == 0 && x.wait != .parkReq && match x.wait with
      | .parked _ => false
      | .tile _ => false
      | _ => true)
/-- An access of a context whose translation is requested, or whose fault is due: the save waits for the end of it (log 33). -/
def Producer.pendingAtSave (p : Producer) : Bool :=
  match p.st with
  | .held none => true
  | .fault _ _ _ => true
  | _ => false
/-- A command that completes before the save (R229): a DPLOAD that reads its image, an MZERO, MLOAD or DPLOAD whose completion
write is held, and one whose fault record or whose completion is on its way. -/
def ECmd.finishes (c : ECmd) : Bool :=
  c.phase == .image || c.phase == .faulted || c.phase == .written || (c.phase == .complete && (c.fn == fMZERO || c.fn == fMLOAD || c.fn == fDPLOAD))
/-- The save waits for something of a VF that completes first: an instruction (R287), an engine command (R229). -/
def State.mustFinish (s : State) (p vf : Nat) : Bool :=
  ((s.vfCtxs p vf).any fun x => s.withinWhole x.1 x.2 || (s.ctx x.1 x.2).inflight.any Producer.pendingAtSave) ||
  s.units.any fun u => (s.part p).bulks.contains (u.1 / 8) && (u.2.mq ++ u.2.sq).any fun c => ECmd.ofVf vf c && c.finishes
/-- The switch of a context's VF has reached its S in the context's core (R285): it issues nothing more, but for an instruction
that completes whole. -/
def State.pastSwitch (s : State) (k c : Nat) : Bool :=
  if c = 0 || isDeep k then false
  else
    let r := s.recOf (s.ctx k c).tid
    (s.part r.part).running == some r.vf && ((s.part r.part).switch.any fun w => !w.saved && s.reached r.part k w) && !s.withinWhole k c

/-- Contexts of a core that stop at S: of a VF, with no arrival (R285). -/
def State.forcedOn (s : State) (p v k : Nat) : Nat :=
  ((s.vfCtxs p v).filter fun x => x.1 == k && (s.ctx k x.2).wait != .yieldG).length
/-- A core samples TS (R285): in the first cycle whose sample is at least S it stops every context of the outgoing VF, each that has
not arrived counted as forced; the first core to reach S gives TSTOP0 (R290). -/
def State.sampleTs (s : State) (k now : Nat) : State :=
  let s' := s.modCore k fun y => { y with sample := now }
  match s.partOf (k / 32) with
  | none => s'
  | some p => match (s.part p).switch with
    | none => s'
    | some w =>
      if w.saved || s.reached p k w || !s'.reached p k w then s'
      else
        let v := (s.part p).running
        let n := match v with | some v => s.forcedOn p v k | none => 0
        s'.modPart p fun x => { x with switch := some { w with
          begun := w.begun.or (some ((now + x.tsOffset) % 2 ^ 64)), outgoing := w.outgoing.or v, forced := w.forced + n } }
/-- Every core of a partition has reached S (R285). -/
def State.reachAll (s : State) (p : Nat) : State :=
  ((s.cores.map fun x => x.1).filter fun k => (s.part p).bulks.contains (k / 32)).foldl (fun s k => s.sampleTs k s.ts) s
/-- The request or switch of a partition changed. -/
def State.modSwitch (s : State) (p : Nat) (f : Switch → Switch) : State := s.modPart p fun x => { x with switch := x.switch.map f }

/-- The switch away from VF v goes on past S (R287-R289): the engines come to their boundaries, then, with nothing left to complete,
its save is made. -/
def State.switchOut (s : State) (p v : Nat) (halted : Bool) : State :=
  let us := (s.units.map fun x => x.1).filter fun u => (s.part p).bulks.contains (u / 8)
  let s := us.foldl (fun s u => s.finishShort u v halted (s.unit u).mq.length) s
  let s := s.modSwitch p fun w => { w with halted := true }
  if s.mustFinish p v then s else (s.saveVf p v).modSwitch p fun w => { w with saved := true, savedAt := s.tsOf p }
/-- GANG_SWITCH_DEADLINE (R285-R289): every core has reached S. Where no VF runs nothing is saved, and TSAVED stays 0 (log 99). -/
def execGangSwitchDeadline (p : Nat) (s : State) : Out :=
  match (s.part p).switch with
  | none => .next s
  | some w =>
    if w.saved || decide (s.tsOf p < w.at_) then .next s
    else
      let s := (s.reachAll p).modSwitch p fun w => { w with begun := w.begun.or (some (s.tsOf p)) }
      match (s.part p).running with
      | none => .next (s.modSwitch p fun w => { w with saved := true })
      | some v => .next ((s.modSwitch p fun w => { w with outgoing := some v }).switchOut p v w.halted)

/-- SWITCH_RESTORE (R290); or, with no switch under way, the restore of a VF that a launch has made the one to run (R282). -/
def execSwitchRestore (p : Nat) (s : State) : Out :=
  match (s.part p).switch with
  | none => .next (s.tryRun p)
  | some w =>
    if w.saved = false then .next (s.tryRun p)
    else if s.mayRun p w.vf = false then .next s
    else
      let now := BitVec.ofNat 64 (s.tsOf p)
      match s.statusLine (w.agent p (.switch p)) w.line [0#64, w.counts, BitVec.ofNat 64 (w.begun.getD 0), BitVec.ofNat 64 w.savedAt, now] with
      | (false, s) => .next s
      | (true, s) => .next (((s.saveDone p).runVf p w.vf).modPart p fun x => { x with switch := none })

/-- Cooperative arrivals of a VF go on at the instruction after their YIELD.G (R291). -/
def State.resumeArrived (s : State) (p vf : Nat) : State :=
  (s.vfCtxs p vf).foldl (fun s x => s.modCtx x.1 x.2 fun c => if c.wait = .yieldG then { c with wait := .none_ } else c) s
/-- A request ends before its S (R291, R339). -/
def State.endSwitch (s : State) (p : Nat) : State :=
  let s := match (s.part p).running with | some v => s.resumeArrived p v | none => s
  s.modPart p fun x => { x with switch := none }

/-- PREEMPT (R339). -/
def execPreempt (d a b : GReg) (s : State) : Out :=
  if s.holdsAll rPREEMPT = false then .next (s.noAuthority (s.g a) rPREEMPT 3)
  else if canonical (s.g b) = false ∨ (s.g b).toNat % 64 ≠ 0 then .next (s.sysOperand (s.g b) 3 1)
  else if (s.deepAlias [s.g b]).isSome then .next (s.fault 0x06 (s.g b) 0#64)
  else if bitsOf (s.e 0) 9 55 ≠ 0 then .next (s.sysOperand (s.e 0) 3 2)
  else
    let p := s.me.part
    let x := s.part p
    let vf := bitsOf (s.e 0) 0 8
    let at_ := (s.g a).toNat
    let now := s.tsOf p
    let e := s.vfEntry p vf
    if x.switch.isSome then .next (s.ret d 1#64)
    else if (x.owns vf && vfEnabled e && vfResident e) = false then .next (s.ret d 2#64)
    else if x.running = some vf then .next (s.ret d 3#64)
    else if at_ < now + 256 ∨ now + 2 ^ 40 < at_ then .next (s.ret d 4#64)
    else
      let w : Switch :=
        { vf := vf, at_ := at_, coop := (s.e 0).getLsbD 8, line := s.g b, callerVf := s.me.vf, bulk := coreBulk s.cur.1,
          outgoing := none, savedAt := 0, arrived := 0, forced := 0, begun := none, halted := false, saved := false }
      .next ((s.modPart p fun y => { y with switch := some w }).ret d 0#64)

/-- PREEMPT.wd (R291, R339); its right is checked when it begins (R315). -/
def execPreemptWd (d : GReg) (s : State) : Out :=
  if s.cc.begun = false ∧ s.holdsAll rPREEMPT = false then .next (s.noAuthority 0#64 rPREEMPT 3)
  else
    let p := s.me.part
    match (s.part p).switch with
    | none => .next (s.ret d 1#64)
    | some w =>
      if w.begun.isSome || decide (w.at_ ≤ s.tsOf p) then .next (s.ret d 2#64)
      else
        match s.statusLine (w.agent p (.ctx s.cur.1 s.cur.2)) w.line [1#64, w.counts, 0#64, 0#64, 0#64, 0#64, 0#64, 0#64] with
        | (false, s) => .next (s.hold false w.line)
        | (true, s) => .next ((s.endSwitch p).ret d 0#64)

end Sys2Proof.Machine
end

