-- ==== Sys2Proof/Machine/Launch.lean ====
section
/-! DEFINITION. Launches (R24-R29), host queues and their slots (R276-R281). -/

namespace Sys2Proof.Machine

/-- A queue descriptor (R276). -/
structure QDesc where
  ring : Word
  k : Nat
  np : Bool
  valid : Bool
  vf : Nat
  head : Nat
  tail : Nat
  deriving DecidableEq, Repr

/-- Key of descriptor q. -/
def State.queueKey (s : State) (p q : Nat) : Nat := (s.part p).dpaKey ((s.desc p 0x60).toNat + 64 * q)
/-- Descriptor q of a partition. -/
def State.queueDesc (s : State) (p q : Nat) : QDesc :=
  let k := s.queueKey p q
  let w := s.mem.word (k + 8)
  { ring := s.mem.word k, k := bitsOf w 0 4, np := w.getLsbD 4, valid := w.getLsbD 5, vf := bitsOf w 8 8,
    head := s.mem.num (k + 0x10) 4, tail := s.mem.num (k + 0x18) 4 }
/-- Records offered and not taken. -/
def QDesc.offered (d : QDesc) : Nat := (d.tail + 2 ^ 32 - d.head) % 2 ^ 32

/-- A slot of a partition. -/
def State.slot (s : State) (p i : Nat) : Slot := fget Slot.empty (s.part p).slots i
def State.setSlotState (s : State) (p i : Nat) (x : Slot) : State := s.modPart p fun y => { y with slots := fput y.slots i x }
/-- The slot that holds a queue. -/
def State.slotOf (s : State) (p q : Nat) : Option Nat := ((s.part p).slots.find? fun x => x.2.queue == some q).map fun x => x.1

/-- A write of one of the device's own units at a DPA (R24, R320): R52 names no such writer, and a sealed page does not refuse it
(log 91). -/
def State.unitWrite (s : State) (p k : Nat) (bs : List Byte) : State := s.agentStore p (s.part p).homeVf (.mem k) bs false

/-- The agent of the queue unit (R409): the rank-0 bulkhead under the queue's VF. -/
def State.queueAgent (s : State) (p vf slot : Nat) : Agent :=
  let b := (s.part p).bulkOf 0
  { part := p, vf := vf, bulk := b, unit := 8 * b, deep := false, engine := true, tid := 0#32, holder := .queue p slot }

/-- Fields of a launch record (R24). -/
def lField (bs : List Byte) (off n : Nat) : Nat := fieldAt bs off n
def lSave (bs : List Byte) : Bool := (lField bs 0x2e 1).testBit 4
/-- A launch's entry PC lies in a range registered under the PASID that the owner of its VF gives that VF (R24, R325, R337). -/
def State.launchPc (s : State) (p vf : Nat) (pc : Word) : Bool :=
  match s.ownerOf (vf / 4) with
  | some q => ((s.part p).rangeOf (s.pasid q vf) pc.toNat).isSome
  | none => false
/-- The status of a launch record (R25, R280); 0 accepts it. -/
def State.launchStatus (s : State) (p qvf : Nat) (bs : List Byte) : Nat :=
  let x := s.part p
  let c := lField bs 0x2a 2
  let t := lField bs 0x2c 1
  let st := lField bs 0x2d 1
  let pc := wordAt bs 0
  let vf := lField bs 0x32 1
  let fl := lField bs 0x2e 1
  let wt := lField bs 0x2f 1
  if t = 0 ∨ c = 0 ∨ st = 0 ∨ 8 < st ∨ c < st then 1
  else if 6 * x.n < lField bs 0x28 2 + c then 2
  else if (pc.getLsbD 0 || !s.launchPc p vf pc) then 3
  else if 1023 < lField bs 0x30 2 then 4
  else if (x.owns vf && vfEnabled (s.vfEntry p vf)) = false then 5
  else if 32 ≤ fl ∨ 16 ≤ wt ∨ wt = 0 ∨ lField bs 0x33 13 ≠ 0 ∨ lField bs 0x10 8 % 64 ≠ 0 ∨
    lField bs 0x18 8 % (if lSave bs then 4096 else 64) ≠ 0 ∨ lField bs 0x20 8 % 64 ≠ 0 then 6
  else if vf ≠ qvf then 7
  else 0

/-- A launch status write (R25): made, held with no notice, or dropped and logged. -/
def State.launchWrite (s : State) (p : Nat) (addr value : Word) (vf q : Nat) : State :=
  let held (s : State) : State := s.modPart p fun x => { x with heldStatus := x.heldStatus ++ [(addr, value, vf, q)] }
  let g := s.queueAgent p vf (1000 + q)
  if addr.toNat % 64 ≠ 8 then s.vlogAppend g.bulk addr.toNat 4 4 q
  else match s.access g (Acc.store 8) addr with
    | (.ok pl, s) => s.agentStore p vf pl (leBytes 8 value.toNat) false
    | (.fault _ _, s) => s.vlogAppend g.bulk addr.toNat 4 4 q
    | (_, s) => held s
/-- Held status writes of a partition tried again. -/
def State.retryStatus (s : State) (p : Nat) : State :=
  let l := (s.part p).heldStatus
  l.foldl (fun s x => s.launchWrite p x.1 x.2.1 x.2.2.1 x.2.2.2) (s.modPart p fun y => { y with heldStatus := [] })

/-- A launch accepted (R26, R282, R298): its flood enters the meshes; it runs its VF when none runs, at once or as soon as its
restore may be made; the first of its VF after a reset has its notice before it. Once a switch has begun, or while another VF waits
to run, it is accepted as one of any other VF (log 100). -/
def State.acceptLaunch (s : State) (p slot : Nat) (addr : Word) (bs : List Byte) : State :=
  let x := s.part p
  let vf := lField bs 0x32 1
  let span := (List.range (lField bs 0x2a 2)).map fun i => lField bs 0x28 2 + i
  let l : Launch :=
    { id := x.launchSeq, addr := addr, words := (List.range 8).map fun i => wordAt bs (8 * i), vf := vf, queueVf := vf,
      slot := slot, floods := span, counting := span, heldShares := [] }
  let s := s.modPart p fun y => { y with launches := y.launches ++ [l], launchSeq := y.launchSeq + 1 }
  let s := if x.resumeDue.contains vf then
      (s.modPart p fun y => { y with resumeDue := y.resumeDue.filter fun v => v ≠ vf }).notice p 0xfffe vf
    else s
  if x.running.isNone && x.next.isNone && !(x.switch.any fun w => w.begun.isSome) then
    if s.mayRun p vf then s.runVf p vf else s.modPart p fun y => { y with next := some vf }
  else s

/-- The previous record of a slot is sent: every cluster of its span has accepted its flood (R280). -/
def State.slotSent (s : State) (p slot : Nat) : Bool :=
  (s.part p).launches.all fun l =>
    l.slot != slot || (l.floods.isEmpty &&
      !((s.part p).savedVfs.any fun v => v.floods.any fun f => f.1 == l.id && !f.2.isEmpty))

/-- The record in hand is taken (R280): HEAD moves on. -/
def State.takeRecord (s : State) (p slot q : Nat) (d : QDesc) (addr : Word) (bs : List Byte) : State :=
  let s := s.capture p 2 addr.toNat 0 bs
  let s := s.unitWrite p (s.queueKey p q + 0x10) (leBytes 4 ((d.head + 1) % 2 ^ 32))
  let st := s.launchStatus p d.vf bs
  if st = 0 then s.acceptLaunch p slot addr bs
  else s.launchWrite p (wordAt bs 0x10 + 8#64) (BitVec.ofNat 64 st) d.vf q

/-- SLOT_TAKE_RECORD (R280): a slot whose ring record cannot be read waits for the next notify (log 27). -/
def execSlotTakeRecord (p slot : Nat) (s : State) : Out :=
  let x := s.slot p slot
  let s := s.retryStatus p
  match x.queue with
  | none => .next s
  | some q =>
    if s.partRunning p = false ∨ s.replaying p = true ∨ x.idle = true ∨ s.slotSent p slot = false then .next s
    else match s.unitReady (s.queueKey p q) 64 with
    | (false, s) => .next s
    | (true, s) =>
      let d := s.queueDesc p q
      if d.offered = 0 then .next s
      else if 2 ^ d.k < d.offered then
        .next ((s.vlogAppend ((s.part p).bulkOf 0) ((s.desc p 0x60).toNat + 64 * q) 3 4 q).setSlotState p slot { x with idle := true })
      else
        let addr := d.ring + BitVec.ofNat 64 (64 * (d.head % 2 ^ d.k))
        match s.access (s.queueAgent p d.vf slot) (Acc.vload 64) addr with
        | (.ok pl, s) =>
          let h := (s.queueAgent p d.vf slot).holder
          let (l, s) := s.linkRead p d.vf h pl 64
          if l = .held then .next s
          else if l != .data || s.placePoison pl 64 then .next ((s.linkDone d.vf h).setSlotState p slot { x with idle := true })
          else .next ((s.linkDone d.vf h).takeRecord p slot q d addr (s.readPlace p pl 64))
        | (.fault _ _, s) => .next (s.setSlotState p slot { x with idle := true })
        | (_, s) => .next s

/-- The stage of cluster c of a span (R27). -/
def launchStage (c cc st : Nat) : Nat :=
  (List.range (st - 1)).foldl (fun m j => if (j + 1) * cc / st ≤ c then j + 1 else m) 0

/-- Bytes of a launch record kept with a launch. -/
def Launch.bytes (l : Launch) : List Byte := l.words.flatMap fun w => leBytes 8 w.toNat
/-- The record of thread t of a core's share (R27): c and k are the core's cluster in the span and its number. -/
def launchRec (p : Nat) (l : Launch) (c k t : Nat) : Rec :=
  let bs := l.bytes
  let tt := lField bs 0x2c 1
  let cc := lField bs 0x2a 2
  let st := lField bs 0x2d 1
  let fl := lField bs 0x2e 1
  let i := (c * 4 + k) * tt + t
  let inb := wordAt bs 0x20
  { Rec.empty with
    roam := fl.testBit 2, prio := BitVec.ofNat 2 fl, pc := wordAt bs 0, table := BitVec.ofNat 10 (lField bs 0x30 2),
    save := lSave bs, launch := true, autoreap := !fl.testBit 3,
    faultLine := wordAt bs 0x18 + BitVec.ofNat 64 (i * (if lSave bs then 4096 else 64)),
    inbox := if inb = 0#64 then 0#64 else inb + BitVec.ofNat 64 (i * 64),
    g1 := BitVec.ofNat 64 (t + k * 2 ^ 16 + c * 2 ^ 18 + launchStage c cc st * 2 ^ 30), g2 := wordAt bs 8,
    g3 := BitVec.ofNat 64 (tt + cc * 2 ^ 16 + st * 2 ^ 28 + tt * 4 * cc * 2 ^ 32), g4 := l.addr, vf := l.vf, part := p,
    launchId := some l.id, coord := t, weight := lField bs 0x2f 1 }

/-- A core's share spawned from t, n threads, up to the first that finds no room (R28): the next t, if any is left. -/
def State.spawnShare (s : State) (p : Nat) (l : Launch) (core c t : Nat) : Nat → Option Nat × State
  | 0 => (none, s)
  | n + 1 =>
    match s.spawnRecord core (launchRec p l c (core % 4) t) with
    | none => (some t, s)
    | some (_, s) => s.spawnShare p l core c (t + 1) n

/-- A launch of a partition changed. -/
def State.modLaunch (s : State) (p id : Nat) (f : Launch → Launch) : State :=
  s.modPart p fun x => { x with launches := x.launches.map fun l => if l.id = id then f l else l }

/-- The share of one core of a cluster, from t on (R27, R28). -/
def State.coreShare (s : State) (p : Nat) (l : Launch) (core c t : Nat) : State :=
  let (rest, s) := s.spawnShare p l core c t (lField l.bytes 0x2c 1 - t)
  match rest with
  | none => s
  | some t => s.modLaunch p l.id fun l => { l with heldShares := l.heldShares ++ [(core, t)] }

/-- LAUNCH_WAKE_MESSAGE (R26-R28): the flood of the oldest launch still to reach flat cluster cl is accepted there when one
of its 16 entries is free; a gated cluster keeps its slots, and takes it as it takes a wake (R406). -/
def execLaunchWakeMessage (p cl : Nat) (s : State) : Out :=
  let s := s.flushNotices p
  match (s.part p).launches.find? fun l => l.floods.contains cl with
  | none => .next s
  | some l =>
    let u := (s.part p).clOfFlat cl
    if 16 ≤ (s.unit u).launches.length ∨ (s.part p).notices.contains (0xfffe, l.vf) = true ∨ s.atSwitch p l.vf = true then .next s
    else
      let s := s.modLaunch p l.id fun l => { l with floods := l.floods.filter fun c => c ≠ cl }
      let s := s.modUnit u fun x => { x with launches := x.launches ++ [(l.id, 4 * lField l.bytes 0x2c 1)] }
      let c := cl - lField l.bytes 0x28 2
      .next ([0, 1, 2, 3].foldl (fun s k => s.coreShare p l (coreKey (u / 8) (u % 8) k) c 0) s)

/-- HELD_SPAWN (R28): a core goes on with the share that found no room. -/
def execHeldSpawn (core : Nat) (s : State) : Out :=
  match s.partOf (core / 32) with
  | none => .next s
  | some p =>
    match (s.part p).launches.find? fun l => l.heldShares.any fun h => h.1 == core with
    | none => .next s
    | some l =>
      let t := ((l.heldShares.find? fun h => h.1 == core).map fun h => h.2).getD 0
      let s := s.modLaunch p l.id fun l => { l with heldShares := l.heldShares.filter fun h => h.1 ≠ core }
      .next (s.coreShare p l core ((s.part p).flatCl (coreUnit core) - lField l.bytes 0x28 2) t)

/-- A cluster is done with a launch (R29). -/
def State.launchLeave (s : State) (p id fc : Nat) : State :=
  let s := s.modLaunch p id fun l => { l with counting := l.counting.filter fun c => c ≠ fc }
  let s := s.modUnit ((s.part p).clOfFlat fc) fun u => { u with launches := u.launches.filter fun x => x.1 ≠ id }
  s.modPart p fun x => { x with launches := x.launches.filter fun l => !(l.id == id && l.counting.isEmpty) }

/-- LAUNCH_COMPLETION_DECREMENT (R29, R198): once the cluster's threads of the launch have all ended or been reaped, and every write
before it is performed at sys scope. -/
def execLaunchCompletionDecrement (p id fc : Nat) (s : State) : Out :=
  match (s.part p).launches.find? fun l => l.id == id with
  | none => .next s
  | some l =>
    let u := (s.part p).clOfFlat fc
    let done := l.counting.contains fc && (s.unit u).launches.contains (id, 0) && !(l.heldShares.any fun h => coreUnit h.1 == u)
    if done = false then .next s
    else
      let line := l.words.getD 2 0#64
      let b := u / 8
      let g : Agent := { part := p, vf := l.vf, bulk := b, unit := u, deep := false, engine := true, tid := 0#32,
                         holder := .decrement p id fc }
      let drop (s : State) : State := (s.vlogAppend b line.toNat 4 4 fc).launchLeave p id fc
      if line.toNat % 64 ≠ 0 then .next (drop s)
      else match s.access g (Acc.atomic 8) line with
        | (.ok pl, s) =>
          if s.writesOut p .sys then .next s
          else match s.decAt p l.vf g.holder pl true with
            | (.done, s) => .next (s.launchLeave p id fc)
            | (.held, s) => .next s
            | (_, s) => .next (drop s)
        | (.fault _ _, s) => .next (drop s)
        | (_, s) => .next s

/-- A notify for a queue that holds no slot (R279): the pending area. -/
def State.pendNotify (s : State) (p q : Nat) : State :=
  let k := s.areaKey p 0x70
  let b := s.mem.byte (k + q / 8)
  if b.getLsbD (q % 8) then s
  else (s.unitWrite p (k + 128 + 8 * q) (leBytes 8 (s.tsOf p))).unitWrite p (k + q / 8) [b ||| BitVec.ofNat 8 (2 ^ (q % 8))]
/-- The pending bit of a queue cleared (R278, R297). -/
def State.pendClear (s : State) (p q : Nat) : State :=
  let k := s.areaKey p 0x70 + q / 8
  let b := s.mem.byte k
  if b.getLsbD (q % 8) then s.unitWrite p k [b &&& ~~~(BitVec.ofNat 8 (2 ^ (q % 8)))] else s

/-- A notify's effect (R277, R279): TAIL written; a queue without a slot is recorded as pending. -/
def State.notifyQueue (s : State) (p q : Nat) (x : Word) : State :=
  let s := s.unitWrite p (s.queueKey p q + 0x18) (leBytes 8 x.toNat)
  if (s.slotOf p q).isSome then s else s.pendNotify p q

/-- DOORBELL_WRITE (R277): a 64-bit host write to doorbell q of a VF. In replay it is refused (R363). -/
def execDoorbellWrite (port vf q : Nat) (x : Word) (s : State) : Out :=
  match s.partOf (vf / 4) with
  | none => .next s
  | some p =>
    if 1024 ≤ q then .next s
    else
      let d := s.queueDesc p q
      let log (cause : Nat) : State := s.vlogAppend ((s.part p).bulkOf 0) (0x10000 + 8 * q) cause 2 port
      if s.replaying p then .next (log 1)
      else if (d.valid && d.vf == vf && bitsOf x 32 32 == 0) = false then .next (log 2)
      else
        let r : OutReq := .doorbell port vf q x
        let go (s : State) : Out := .next ((s.capture p 3 (0x10000 + 8 * q) port (leBytes 8 x.toNat)).notifyQueue p q x)
        s.outsideGate (s.queueKey p q + 0x18) 8 true true r fun s =>
          if (s.slotOf p q).isSome then go s else s.outsideGate (s.areaKey p 0x70 + q / 8) 1 true true r go

/-- Key of a slot's control words (R278). -/
def State.slotKey (s : State) (p i : Nat) : Nat := (s.part p).dpaKey ((s.desc p 0x68).toNat + 16 * i)
/-- A request done (R278): word 0x08, then GO cleared. -/
def State.slotDone (s : State) (p i : Nat) (mq : Nat) (mapped : Bool) (result : Nat) : State :=
  let k := s.slotKey p i
  let w := mq % 1024 + mapped.toNat * 2 ^ 10 + result * 2 ^ 11 + s.tsOf p % 2 ^ 32 * 2 ^ 32
  (s.unitWrite p (k + 8) (leBytes 8 w)).unitWrite p k (leBytes 8 (s.mem.num k 8 % 2 ^ 63))
/-- A request that is refused leaves MQ and MAPPED as they are. -/
def State.slotRefuse (s : State) (p i result : Nat) : State :=
  let w := s.mem.num (s.slotKey p i + 8) 8
  s.slotDone p i (w % 1024) ((s.slot p i).queue.isSome) result

/-- SLOT_MAP (R278). -/
def execSlotMap (p slot : Nat) (s : State) : Out :=
  let w := s.mem.num (s.slotKey p slot) 8
  let q := w % 1024
  if s.partRunning p = false ∨ 64 ≤ slot ∨ w.testBit 63 = false ∨ w.testBit 10 = true then .next s
  else if (s.queueDesc p q).valid = false then .next (s.slotRefuse p slot 1)
  else if (s.slot p slot).queue.isSome then .next (s.slotRefuse p slot 4)
  else if (s.slotOf p q).isSome then .next (s.slotRefuse p slot 3)
  else .next (((s.setSlotState p slot { queue := some q, idle := false }).pendClear p q).slotDone p slot q true 0)

/-- SLOT_UNMAP (R278): it waits for the record in hand to be sent. -/
def execSlotUnmap (p slot : Nat) (s : State) : Out :=
  let w := s.mem.num (s.slotKey p slot) 8
  if s.partRunning p = false ∨ 64 ≤ slot ∨ w.testBit 63 = false ∨ w.testBit 10 = false then .next s
  else match (s.slot p slot).queue with
    | none => .next (s.slotRefuse p slot 0)
    | some q =>
      if (s.queueDesc p q).np then .next (s.slotRefuse p slot 2)
      else if s.slotSent p slot = false then .next s
      else .next ((s.setSlotState p slot Slot.empty).slotDone p slot (s.mem.num (s.slotKey p slot + 8) 8 % 1024) false 0)

end Sys2Proof.Machine
end

