-- ==== Sys2Proof/Machine/Translate.lean ====
section
/-! DEFINITION. What answers a translation: ATS and PRI (R330-R332), invalidation (R333, R334), XLINV (R336), and the
release of code ranges (R338). -/

namespace Sys2Proof.Machine

/-- The records of a bulkhead that waited for a translation are tried again (R317). -/
def State.retryRecs (s : State) (b : Nat) : State :=
  (s.bulk b).pendRecs.foldl (fun s r => s.emit b r.part r.line r.rc r.source) (s.modBulk b fun x => { x with pendRecs := [] })
/-- What an answered translation, or an answer over a link, lets go on: contexts, completion writes, launch statuses, records (R160,
R183, R25). -/
def State.answered (s : State) (p : Nat) : State :=
  let bs := (s.part p).bulks
  bs.foldl (fun s b => s.retryRecs b) (((s.unhold bs).retryComps p).retryStatus p)

/-- A holder for which a page request may be sent: not a hint (R177) or an UNWATCH (R259). -/
def Holder.asksPage : Holder → Bool
  | .hint => false
  | .unwatch _ _ => false
  | _ => true

/-- Holders told that their access is refused (R330); a hint is dropped. -/
def State.refuse (s : State) (b : Nat) (q : PageReq) (hs : List Holder) (code : Nat) (detail : Word) : State :=
  let rs := (hs.filter fun h => h ≠ .hint && h ≠ .line).map fun h =>
    ({ holder := h, write := q.write, pasid := q.pasid, vpage := q.vpage, code := code, detail := detail } : Refused)
  s.modBulk b fun x => { x with refused := x.refused ++ rs }
/-- The n-th request of a bulkhead removed, or in another state. -/
def State.dropReq (s : State) (b n : Nat) : State := s.modBulk b fun x => { x with reqs := x.reqs.eraseIdx n }
def State.setReq (s : State) (b n : Nat) (q : PageReq) : State := s.modBulk b fun x => { x with reqs := x.reqs.set n q }
/-- Page requests of a bulkhead that are outstanding (R332). -/
def Bulk.pageReqs (b : Bulk) : Nat := (b.reqs.filter fun q => q.st == 1).length
/-- The page requests that a bulkhead may have outstanding (R332): 64, or an equal share, at least 1, of what system software has
allocated to the 48 bulkheads. -/
def State.pageShare (s : State) : Nat := max 1 (min 64 (s.prAlloc / 48))
/-- The PAGE_WAIT notice for a page that the scanner waits for, once per page (R330, log 54); the boot scan has no caller. -/
def State.scanNotice (s : State) (p : Nat) (c : Scan) (addr : Word) : State :=
  let page := addr.toNat / 65536
  match (s.part p).scan with
  | none => s
  | some y =>
    if y.boot || y.noticed.contains page then s
    else (s.modPart p fun x => { x with scan := some { y with noticed := page :: y.noticed } }).emit c.bulk p c.faultLine
      { code := 0x12, engine := true, notice := true, saved := false, late := false, tid := c.tid, pc := c.pc, addr := addr,
        detail := 0#64, vf := c.vf, core := 0xffff } 0

/-- The PAGE_WAIT notice of an access for which a page request is sent (R330): to the thread whose instruction, producer or scan it
is, once for each (log 54), or that issued a DPLOAD. The other accesses of engines and units write none (R183, R223, R227, R240). -/
def State.askNotice (s : State) (b : Nat) (h : Holder) (va : Word) : State :=
  let page := va.toNat / 65536
  match h with
  | .ctx k c =>
    let x := s.ctx k c
    if x.bound = false ∨ x.noticed = some page then s
    else (s.pageNotice b x.tid (s.coreField (s.recOf x.tid).part k) x.stopPc va).modCtx k c fun y => { y with noticed := some page }
  | .prod k c pc =>
    let x := s.ctx k c
    let held (p : Producer) : Bool := p.pc == pc && match p.st with | .held n => n != some page | _ => false
    match x.inflight.findIdx? held with
    | some n => (s.pageNotice b x.tid (s.coreField (s.recOf x.tid).part k) pc va).modCtx k c fun y => y.setProd n (.held (some page))
    | none => s
  | .engine u n =>
    match (s.unit u).mq.find? fun c => c.fn == fDPLOAD && c.phase == .image && c.slot + 8 == n with
    | some c => s.dploadNotice u c
    | none => s
  | .scan p => match (s.part p).scan with
    | some c => s.scanNotice p c va
    | none => s
  | _ => s
/-- The n-th request of a bulkhead leaves as a page request, by a host port (R330, R350), with the notices of those that wait for it. -/
def State.sendPage (s : State) (p b n : Nat) : State :=
  match (s.bulk b).reqs[n]? with
  | none => s
  | some q =>
    let s := s.setReq b n { q with st := 1, port := (s.portOf p).getD (p % 2) }
    (q.asked.filter fun x => q.holders.contains x.1).foldl (fun s x => s.askNotice b x.1 x.2) s
/-- A page request that waited takes the place that has come free (R332). -/
def State.promote (s : State) (p b : Nat) : State :=
  if (s.bulk b).pageReqs < s.pageShare then
    match (s.bulk b).reqs.findIdx? fun q => q.st == 2 with
    | some n => s.sendPage p b n
    | none => s
  else s

/-- No translation, or not the permission (R330): a page request for the holders that may ask for one. A record and a TSTART ask and
do not wait for its answer (R309, R317). -/
def State.noXlat (s : State) (p b n : Nat) (q : PageReq) : State :=
  let s := s.refuse b q (q.holders.filter fun h => !h.asksPage) 0x13 0#64
  let hs := q.holders.filter Holder.asksPage
  if hs.isEmpty then s.dropReq b n
  else (s.setReq b n { q with holders := hs.filter fun h => !h.asksNoPage, st := 2 }).promote p b

/-- What was translated under some PASIDs before a bound is performed (R333): the link operations and group fills of the old
epoch are done. Every other access is performed in the step that translates it (log 4). -/
def State.drained (s : State) (p : Nat) (of : Nat → Bool) (bound : Nat) : Bool :=
  !((s.hostOps ++ s.remoteOps).any fun o => o.part == p && of o.pasid && decide (o.id < bound)) &&
  !((s.part p).groups.any fun g => g.2.fills.any fun f => f.places.isSome && of (s.pasid p f.vf) && decide (f.mark < bound))

/-- Cache entries removed in every bulkhead of a partition. -/
def State.dropEntries (s : State) (p : Nat) (f : TlbEntry → Bool) : State :=
  (s.part p).bulks.foldl (fun s b => s.modBulk b fun x => { x with tlb := x.tlb.filter fun e => !f e }) s

/-- The lowest tag number of the package that no partition uses. -/
def State.freeTag (s : State) : Nat :=
  let used := s.parts.flatMap fun p => p.2.tags.map fun t => t.tag
  ((List.range 256).find? fun i => !used.contains i).getD 0
/-- The least recently used tag. -/
def leastTag : List Tag → Option Tag
  | [] => none
  | t :: l => match leastTag l with
    | none => some t
    | some u => if u.used < t.used then some u else some t
/-- The tag of a PASID, taken if it has none (R331): a free one, or the least recently used, once it has drained. -/
def State.takeTag (s : State) (p pasid : Nat) : Option (Nat × State) :=
  let x := s.part p
  match x.tagOf pasid with
  | some t => some (t.tag, s)
  | none =>
    let new (n : Nat) : Tag := { tag := n, pasid := pasid, epoch := false, used := s.ts }
    if x.tags.length < bitsOf (s.desc p 0x20) 0 9 then
      let n := s.freeTag
      some (n, s.modPart p fun y => { y with tags := y.tags ++ [new n] })
    else match leastTag x.tags with
      | none => none
      | some u =>
        if s.drained p (· == u.pasid) s.opSeq then
          some (u.tag, (s.dropEntries p fun e => e.tag == u.tag).modPart p fun y =>
            { y with tags := y.tags.map fun t => if t.tag = u.tag then new u.tag else t })
        else none

/-- An entry filled (R330, R331): above 1 GiB as 1 GiB; with 2,048 held, one the device chooses goes (log 11). -/
def State.fillEntry (s : State) (b tag : Nat) (q : PageReq) (ppage pages : Nat) (r w : Bool) : State :=
  let n := min pages 16384
  let off := q.vpage % n
  let e : TlbEntry :=
    { tag := tag, pasid := q.pasid, vpage := q.vpage - off, pages := n, ppage := ppage - off,
      win := s.pageClass ((s.ownerOf b).getD 48) ppage, r := r, w := w }
  if (s.bulk b).tlb.length < 2048 then s.modBulk b fun x => { x with tlb := x.tlb ++ [e] }
  else { s.modBulk b fun x => { x with tlb := x.tlb.eraseIdx (Config.freeNat s.free % 2048) ++ [e] } with free := s.free + 1 }

/-- ATS_TRANSLATION_COMPLETION (R330, R333): the answer to the n-th request of a bulkhead. -/
def execAtsTranslationCompletion (bh n : Nat) (ans : AtsAnswer) (s : State) : Out :=
  match s.ownerOf bh, (s.bulk bh).reqs[n]? with
  | some p, some q =>
    if q.st ≠ 0 then .next s
    else if q.stale then .next (s.setReq bh n { q with stale := false })
    else match ans with
      | .small size => .next (((s.refuse bh q q.holders 0x14 (BitVec.ofNat 64 size)).dropReq bh n).answered p)
      | .none_ => .next ((s.noXlat p bh n q).answered p)
      | .grant ppage pages r w =>
        if pages = 0 || !(if q.write then w else r) then .next ((s.noXlat p bh n q).answered p)
        else match s.takeTag p q.pasid with
          | none => .next s
          | some (tag, s) => .next (((s.fillEntry bh tag q ppage pages r w).dropReq bh n).answered p)
  | _, _ => .next s

/-- PRI_RESPONSE (R330): Success repeats the translation request; any other code refuses the access. -/
def execPriResponse (bh n code : Nat) (s : State) : Out :=
  match s.ownerOf bh, (s.bulk bh).reqs[n]? with
  | some p, some q =>
    if q.st ≠ 1 then .next s
    else
      let s := if code = 0 then s.setReq bh n { q with st := 0, stale := false }
        else (s.refuse bh q q.holders 0x13 (BitVec.ofNat 64 code)).dropReq bh n
      .next ((s.promote p bh).answered p)
  | _, _ => .next s

/-- The L1 instruction lines of some pages invalidated in every core of a partition (R53, R338). -/
def State.dropLines (s : State) (p : Nat) (pages : List Nat) : State :=
  let bs := (s.part p).bulks
  { s with cores := s.cores.map fun c =>
      if bs.contains (c.1 / 32) then (c.1, { c.2 with l1i := c.2.l1i.filter fun x => !pages.contains (x.1 / 1024) }) else c }
/-- A code range released (R338): unregistered, its lines invalidated, unsealed. -/
def State.releaseRange (s : State) (p : Nat) (r : CodeRange) : State :=
  (s.modPart p fun x => { x with ranges := x.ranges.filter fun y => y ≠ r }).dropLines p r.pages

/-- The 64 KiB pages [a, a + n) and [b, b + m) meet. -/
def meets (a n b m : Nat) : Bool := decide (a < b + m) && decide (b < a + n)

/-- A tag's epoch flips (R333). -/
def State.flipEpoch (s : State) (p pasid : Nat) : State :=
  s.modPart p fun x => { x with tags := x.tags.map fun t => if t.pasid = pasid then { t with epoch := !t.epoch } else t }

/-- ATS_INVALIDATE_REQUEST (R333, R334): entries removed, the epoch flipped, code ranges released, a scan spoiled. -/
def execAtsInvalidateRequest (p pasid vpage pages : Nat) (s : State) : Out :=
  if (s.part p).bulks.isEmpty then .next s
  else
    let s := match (s.part p).tagOf pasid with
      | some t => s.dropEntries p fun e => e.tag == t.tag && meets e.vpage e.pages vpage pages
      | none => s
    let stale (q : PageReq) : PageReq :=
      if q.pasid == pasid && q.st == 0 then { q with stale := true } else q
    let s := (s.part p).bulks.foldl (fun s b => s.modBulk b fun x => { x with reqs := x.reqs.map stale }) s
    let rs := (s.part p).ranges.filter fun r => r.pasid == pasid && meets (r.base / 65536) (r.len / 65536) vpage pages
    let s := rs.foldl (fun s r => s.releaseRange p r) s
    let first := !((s.part p).invals.any fun i => i.pasid == pasid)
    let s := if first then s.flipEpoch p pasid else s
    let spoil (c : Scan) : Scan :=
      if c.pasid == pasid && meets (c.base / 65536) ((c.len + 65535) / 65536) vpage pages then { c with spoiled := true } else c
    .next (s.modPart p fun x =>
      { x with
        invals := x.invals ++ [{ pasid := pasid, bound := if first then some s.opSeq else none }]
        scan := x.scan.map spoil })

/-- INVALIDATE_COMPLETION (R333): the oldest invalidation's old epoch has drained; requests sent before it are no longer
discarded; the next invalidation of the tag flips the epoch. -/
def execInvalidateCompletion (p : Nat) (s : State) : Out :=
  match (s.part p).invals with
  | [] => .next s
  | i :: rest =>
    match i.bound with
    | none => .next s
    | some n =>
      if s.drained p (· == i.pasid) n = false then .next s
      else
        let s := s.modPart p fun x => { x with invals := rest }
        match rest.findIdx? fun j => j.pasid == i.pasid with
        | some m =>
          let bound := some s.opSeq
          .next ((s.flipEpoch p i.pasid).modPart p fun x => { x with invals := x.invals.modify m fun j => { j with bound := bound } })
        | none =>
          let fresh (q : PageReq) : PageReq := if q.pasid = i.pasid then { q with stale := false } else q
          .next ((s.part p).bulks.foldl (fun s b => s.modBulk b fun x => { x with reqs := x.reqs.map fresh }) s)

/-- The bound of the current XLINV's drain: that of its first execution (R336). -/
def State.drainBound (s : State) : Nat := match s.cc.wait with | .drain n => n | _ => s.opSeq
/-- An XLINV (R336): entries removed at once in every bulkhead of the partition; it is done once what was translated before is
performed. -/
def State.xlinv (s : State) (d : GReg) (of : Nat → Bool) (f : TlbEntry → Bool) : Out :=
  let p := s.me.part
  match s.cc.wait with
  | .drain n => if s.drained p of n then .next (s.ret d 0#64) else .next s
  | _ =>
    if s.drained p of s.drainBound then .next ((s.dropEntries p f).ret d 0#64)
    else .next (((s.dropEntries p f).waitFor (.drain s.drainBound)).modCur fun c => { c with begun := true })

/-- XLINV (R336). -/
def execXlinv (d a b : GReg) (s : State) : Out :=
  if (s.g a).toNat % 65536 ≠ 0 then .next (s.sysOperand (s.g a) 2 0)
  else if (s.g b).toNat % 65536 ≠ 0 ∨ s.g b = 0#64 then .next (s.sysOperand (s.g b) 2 1)
  else
    let pasid := s.pasid s.me.part s.me.vf
    s.xlinv d (· == pasid) fun e => e.pasid == pasid && meets e.vpage e.pages ((s.g a).toNat / 65536) ((s.g b).toNat / 65536)
/-- XLINV.vf (R336). -/
def execXlinvVf (d : GReg) (s : State) : Out :=
  let pasid := s.pasid s.me.part s.me.vf
  s.xlinv d (· == pasid) fun e => e.pasid == pasid
/-- XLINV.all (R336); its right is checked when it begins (R315). -/
def execXlinvAll (d : GReg) (s : State) : Out :=
  if s.cc.begun = false ∧ s.holdsAll rWRITE = false then .next (s.noAuthority 0#64 rWRITE 2)
  else s.xlinv d (fun _ => true) fun _ => true

end Sys2Proof.Machine
end

