-- ==== Sys2Proof/Machine/Codemap.lean ====
section
/-! DEFINITION. Code ranges and their scanner (R49-R53, R337, R338). -/

namespace Sys2Proof.Machine

/-- What ONCE may prefix (R48). -/
def onceFollows (h : BitVec 16) (i : Instr) : Bool :=
  match i with
  | .gete .. => true
  | .rdts .. => true
  | .rdid .. => true
  | _ =>
    if h.getLsbD 0 then
      let m := bitsOf h 1 6
      decide (m ≤ 0x0a) || m == 0x15 || m == 0x16 || m == 0x1d || m == 0x1e
    else [1, 2, 11, 13].contains (bitsOf h 1 4)

/-- The parcels of the pool that an instruction heads (R47). -/
def poolOf : Instr → Nat
  | .pool n => n.toNat
  | .poolw n => n.toNat
  | _ => 0

/-- The walk of R49 from byte offset p of a range of n bytes: its bitmap from there, parcel by parcel, or the status and
offset of a refusal. `rd` reads a parcel; the fuel is the parcels left. -/
def scanWalk (rd : Nat → BitVec 16) (n : Nat) : Nat → Nat → Bool → Except (Nat × Nat) (List Bool)
  | 0, _, _ => .ok []
  | f + 1, p, once =>
    if n ≤ p then if once then .error (6, n - 2) else .ok []
    else
      let h := rd p
      let size := if h.getLsbD 0 then 4 else 2
      if n < p + size then .error (2, p)
      else
        let bytes := leBytes 2 h.toNat ++ (if size = 4 then leBytes 2 (rd (p + 2)).toNat else [])
        match decode bytes with
        | .error _ => .error (1, p)
        | .ok (i, _) =>
          if once && !onceFollows h i then .error (6, p)
          else
            let k := poolOf i
            if n < p + size + 2 * k then .error (2, p)
            else
              let isOnce := match i with | .once => true | _ => false
              match scanWalk rd n f (p + size + 2 * k) isOnce with
              | .error e => .error e
              | .ok l => .ok ((false :: if size = 4 then [true] else []) ++ List.replicate k true ++ l)

/-- Eight bits as a byte, bit 0 first. -/
def byteOf (l : List Bool) : Byte := BitVec.ofNat 8 (l.foldr (fun b n => b.toNat + 2 * n) 0)
/-- n bytes of a bit list (R51). -/
def packBits : Nat → List Bool → List Byte
  | 0, _ => []
  | n + 1, l => byteOf (l.take 8) :: packBits n (l.drop 8)

/-- The agent of a scan (R409). -/
def Scan.agent (c : Scan) (p : Nat) : Agent :=
  { part := p, vf := c.vf, bulk := c.bulk, unit := 8 * c.bulk, deep := false, engine := true, tid := c.tid, holder := .scan p }

/-- The page addresses of n bytes from a. -/
def pagesOf (a n : Nat) : List Nat := (List.range ((a % 65536 + n + 65535) / 65536)).map fun i => a / 65536 + i

/-- What a page of a range or bitmap leads to: a page of the partition's device memory, a page of host memory or of a tarn by its
first key, nothing the scanner may use, or not yet known. -/
inductive ScanPage | dev (k : Nat) | far (k : Nat) | bad | wait deriving DecidableEq, Repr

/-- A page translated for the scanner (R337), which asks read permission for the range and for the bitmap that it writes (R330 names
engines' writes, and R337 gives the scanner none; log 105). -/
def State.scanPage (s : State) (p : Nat) (c : Scan) (vpage : Nat) : ScanPage × State :=
  match s.locate (c.agent p) Acc.probe (BitVec.ofNat 64 (vpage * 65536)) with
  | (.ok (.mem k), s) => (if isDevKey k then .dev (k / 65536) else .far k, s)
  | (.ok _, s) => (.bad, s)
  | (.fault _ _, s) => (.bad, s)
  | (.page, s) => (.wait, s.scanNotice p c (BitVec.ofNat 64 (vpage * 65536)))
  | (_, s) => (.wait, s)
def State.scanPages (s : State) (p : Nat) (c : Scan) : List Nat → List ScanPage × State
  | [] => ([], s)
  | v :: l =>
    let (x, s) := s.scanPage p c v
    let (xs, s) := s.scanPages p c l
    (x :: xs, s)
/-- The device pages among them. -/
def devPages (l : List ScanPage) : List Nat := l.filterMap fun x => match x with | .dev k => some k | _ => none

/-- Operands that break the limits of R49 (status 3). -/
def Scan.bad (c : Scan) : Bool :=
  c.base % 65536 != 0 || c.len % 65536 != 0 || c.len == 0 || decide (2 ^ 26 < c.len) || c.bitmap % 4096 != 0
/-- Overlap in virtual addresses under one PASID (R49). -/
def Scan.overlapsVa (c : Scan) (rs : List CodeRange) : Bool :=
  meets c.base c.len c.bitmap (c.len / 16) ||
  rs.any fun r => r.pasid == c.pasid &&
    (meets c.base c.len r.base r.len || meets c.base c.len r.bitmap (r.len / 16) ||
     meets c.bitmap (c.len / 16) r.base r.len || meets c.bitmap (c.len / 16) r.bitmap (r.len / 16))
/-- Overlap in device pages (R49, log 13). -/
def overlapsPa (ps bs : List Nat) (rs : List CodeRange) : Bool :=
  (ps.any fun x => bs.contains x) || (ps ++ bs).any fun x => rs.any fun r => r.pages.contains x || r.bmPages.contains x

/-- A scan has found its result (R50): a refusal unseals. -/
def State.scanFound (s : State) (p : Nat) (c : Scan) (status off : Nat) : State :=
  let s := s.clearRefused c.bulk (.scan p)
  let c := if status = 0 then c else { c with pages := [], bmPages := [] }
  s.modPart p fun x => { x with scan := some { c with result := some (status, off) } }

/-- The n bytes of the bitmap of a range refused before its seal are undefined (R50), but for pages that a registered range, scan or
save area has sealed, and those of another partition or package (log 28). -/
def State.bmDrop (s : State) (a n : Nat) (l : List ScanPage) : State :=
  (List.range l.length).foldl (fun s j =>
    let drop (k : Nat) : State :=
      let lo := k + (if j = 0 then a % 65536 else 0)
      let hi := k + min 65536 (a % 65536 + n - 65536 * j)
      if s.sealed k then s else (s.scramble lo hi).written lo (hi - lo)
    match l.getD j .bad with
    | .dev k => drop (k * 65536)
    | .far k => drop k
    | _ => s) s
/-- The checks before the walk, then the seal (R49, R50, R53, R337). -/
def State.scanCheck (s : State) (p : Nat) (c : Scan) : State :=
  let early := if c.bad then some 3 else if c.overlapsVa (s.part p).ranges then some 4 else none
  let n := min c.len (2 ^ 26) / 16
  let (rs, s) := if early.isSome then ([], s) else s.scanPages p c (pagesOf c.base c.len)
  let (bs, s) := s.scanPages p c (pagesOf c.bitmap n)
  let refuse (status : Nat) : State := (s.bmDrop c.bitmap n bs).scanFound p c status 0
  if (rs ++ bs).contains .wait then s
  else match early with
  | some status => refuse status
  | none =>
    if overlapsPa (devPages rs) (devPages bs) (s.part p).ranges then refuse 4
    else if 256 ≤ (s.part p).ranges.length then refuse 5
    else if ((rs ++ bs).any fun x => match x with | .dev _ => false | _ => true) || c.spoiled then refuse 7
    else s.modPart p fun x => { x with scan := some { c with pages := devPages rs, bmPages := devPages bs } }

/-- The range as it would be registered. -/
def Scan.range (c : Scan) : CodeRange :=
  { base := c.base, len := c.len, bitmap := c.bitmap, pasid := c.pasid, boot := c.boot, pages := c.pages, bmPages := c.bmPages }

/-- The pieces of a range's bitmap, page by page: key and bytes. -/
def CodeRange.bmPieces (r : CodeRange) : List (Nat × Nat × Nat) :=
  (List.range r.bmPages.length).map fun j =>
    let lo := if j = 0 then 0 else 65536 * j - r.bitmap % 65536
    let hi := min (65536 * (j + 1) - r.bitmap % 65536) (r.len / 16)
    (r.bmKey (8 * lo), lo, hi)
/-- The bitmap written (R49, R51). -/
def State.bmWrite (s : State) (p vf : Nat) (r : CodeRange) (bs : List Byte) : State :=
  r.bmPieces.foldl (fun s x => s.unitStore x.1 p vf ((bs.drop x.2.1).take (x.2.2 - x.2.1))) s
/-- The bitmap of a refused range: its contents are undefined (R50). -/
def State.bmForget (s : State) (r : CodeRange) : State :=
  r.bmPieces.foldl (fun s x => (s.scramble x.1 (x.1 + (x.2.2 - x.2.1))).written x.1 (x.2.2 - x.2.1)) s

/-- The walk of a sealed range (R49). A poisoned block of it is refused as status 7 (log 28). -/
def State.scanRange (s : State) (p : Nat) (c : Scan) : State :=
  let r := c.range
  let rd (o : Nat) : BitVec 16 := BitVec.ofNat 16 (s.mem.num (r.key (c.base + o)) 2)
  if c.spoiled || c.pages.any fun k => s.mem.poisoned (k * 65536) 65536 then (s.bmForget r).scanFound p c 7 0
  else match scanWalk rd c.len (c.len / 2 + 1) 0 false with
    | .ok l => (s.bmWrite p c.vf r (packBits (c.len / 16) l)).scanFound p c 0 0
    | .error e => (s.bmForget r).scanFound p c e.1 e.2

/-- The range is registered, or not, and the scanner is free (R53). -/
def State.scanEnd (s : State) (p : Nat) (c : Scan) (status : Nat) : State :=
  if status = 0 then
    (s.modPart p fun x => { x with ranges := x.ranges ++ [c.range], scan := none }).dropLines p c.pages
  else s.modPart p fun x => { x with scan := none }

/-- The status line written as a release at sys scope, or dropped and logged (R50, R337); it waits while its translation is
requested. -/
def State.scanReport (s : State) (p : Nat) (c : Scan) (status off : Nat) : State :=
  match s.access (c.agent p) (Acc.vstore 64) c.status with
  | (.page, s) => s.scanNotice p c c.status
  | (.ok pl, s) =>
    if s.writesOut p .sys then s else
    let s := (s.clearRefused c.bulk (.scan p)).agentStore p c.vf (pl.shift 8) (leBytes 8 off) false
    (s.scanEnd p c status).agentStore p c.vf pl (leBytes 8 status) false
  | (.fault _ _, s) =>
    ((s.clearRefused c.bulk (.scan p)).vlogAppend c.bulk c.status.toNat 4 6 (c.tid.toNat % 65536)).scanEnd p c status
  | (_, s) => s

/-- CODEMAP_SCAN (R49-R53, R337): the checks and the seal, then the walk, then the report. The result of the boot range
stands until the start takes it (R327). -/
def execCodemapScan (p : Nat) (s : State) : Out :=
  match (s.part p).scan with
  | none => .next s
  | some c =>
    match c.result with
    | none => .next (if c.pages.isEmpty then s.scanCheck p c else s.scanRange p c)
    | some r =>
      if c.boot then .next s
      else if c.spoiled && r.1 == 0 then .next ((s.bmForget c.range).scanFound p { c with result := none } 7 0)
      else .next (s.scanReport p c r.1 r.2)

/-- CODEMAP (R337). -/
def execCodemap (d a : GReg) (s : State) : Out :=
  if s.holdsAll rWRITE = false then .next (s.noAuthority (s.g a) rWRITE 1)
  else if canonical (s.g a) = false ∨ (s.g a).toNat % 64 ≠ 0 then .next (s.sysOperand (s.g a) 1 0)
  else match s.deepAlias [s.g a, s.e 0, s.e 2] with
  | some x => .next (s.fault 0x06 x 0#64)
  | none =>
    match s.locate s.ag (Acc.vstore 64) (s.g a) with
    | (.ok _, s) =>
      let p := s.me.part
      if (s.part p).scan.isSome then .next s
      else
        let c : Scan :=
          { base := (s.e 0).toNat, len := (s.e 1).toNat, bitmap := (s.e 2).toNat, status := s.g a, pasid := s.pasid p s.me.vf,
            vf := s.me.vf, bulk := coreBulk s.cur.1, tid := s.tid, pc := s.pc, faultLine := s.me.faultLine, noticed := [], boot := false, spoiled := false, pages := [], bmPages := [],
            result := none }
        .next ((s.modPart p fun x => { x with scan := some c }).ret d 0#64)
    | (.fault c e, s) => .next (s.fault c (s.g a) e)
    | (.page, s) => .next (s.hold true (s.g a))
    | (_, s) => .next (s.hold false (s.g a))

/-- CODEMAP.rel (R338). -/
def execCodemapRel (d a : GReg) (s : State) : Out :=
  if s.holdsAll rWRITE = false then .next (s.noAuthority (s.g a) rWRITE 1)
  else
    let p := s.me.part
    let pasid := s.pasid p s.me.vf
    let x := s.part p
    if x.scan.any fun c => c.pasid == pasid && c.base == (s.g a).toNat then .next (s.ret d 3#64)
    else match x.ranges.find? fun r => r.pasid == pasid && r.base == (s.g a).toNat with
    | some r => if r.boot then .next (s.ret d 2#64) else .next ((s.releaseRange p r).ret d 0#64)
    | none => .next (s.ret d 1#64)

end Sys2Proof.Machine
end

