-- ==== Sys2Proof/Machine/Gates.lean ====
section
/-! DEFINITION. Gates (R242-R245). -/

namespace Sys2Proof.Machine

/-- The engine flags in g(b)[13:8] (R208, R242), with a scope of 6 or 7 none. -/
def flagsOf (n : Nat) : Option EFlags :=
  let mk (c : Scope) : Option EFlags := some { acq := n.testBit 0, rel := n.testBit 1, scope := c, dec := n.testBit 5 }
  match n / 4 % 8 with
  | 0 => mk .core | 1 => mk .clu | 2 => mk .blk | 3 => mk .part | 4 => mk .dev | 5 => mk .sys
  | _ => none

/-- The parked command that g(b) describes (R242): none gives status 10. -/
def State.parked (s : State) (x : Word) : Option ECmd :=
  let matrix := x.getLsbD 0
  let fn := bitsOf x 1 4
  let tile := bitsOf x 5 3
  if bitsOf x 14 50 ≠ 0 ∨ (if matrix then 4 < fn else 3 < fn ∨ tile ≠ 0) ∨ (matrix && isDeep s.cur.1) then none
  else (flagsOf (bitsOf x 8 6)).map (s.newCmd matrix fn tile)

/-- The address operands of a GATE: its counter, and those of a parked copy (R30, R233). -/
def State.gateOperands (s : State) (a x : Word) : List Word :=
  a :: (if !x.getLsbD 0 && decide (bitsOf x 1 4 ≤ 3) then s.copyOperands (bitsOf x 1 4) else [])

/-- The entry of a gate list that a GATE takes: the free one with the lowest number (log 103). -/
def Clus.freeGate (u : Clus) : Nat := ((List.range 32).find? fun i => !(u.gates.any fun g => g.idx == i)).getD 0

/-- The parked command's own status (R209, R237). -/
def ECmd.status (c : ECmd) : Nat := if c.matrix then c.matrixStatus else c.copyStatus

/-- GATE on a counter at a key (R242, R243): the record at its home, the entry, and the counter read in the same step. -/
def State.gateArm (s : State) (d : GReg) (c : ECmd) (k : Nat) : State :=
  if c.status ≠ 0 then s.ret d (BitVec.ofNat 64 c.status)
  else
    let u := coreUnit s.cur.1
    let x := s.unit u
    let b := keyBulk k
    let line := k / 64
    match s.recordWatcher b line (.gate u x.gateSeq) with
    | none => s.ret d 12#64
    | some s =>
      let g : Gate := { idx := x.freeGate, id := x.gateSeq, fired := none, counter := k, cmd := c }
      let s := s.modUnit u fun y => { y with gates := y.gates ++ [g], gateSeq := y.gateSeq + 1 }
      let s := if s.mem.num k 8 = 0 then (s.fireGateAt u g.id).dropWatcher b line (.gate u g.id) else s
      s.ret d 0#64

/-- GATE (R242). Its counter is read at the home as any shared request (R151, R243, R352). -/
def execGate (d a b : GReg) (s : State) : Out :=
  let u := coreUnit s.cur.1
  let va := s.g a
  if 32 ≤ (s.unit u).gates.length then .next s
  else match s.deepAlias (s.gateOperands va (s.g b)) with
    | some x => .next (s.fault 0x06 x 0#64)
    | none =>
      match s.parked (s.g b) with
      | none => .next (s.ret d 10#64)
      | some c =>
        if canonical va = false ∨ va.toNat % 8 ≠ 0 then .next (s.ret d 11#64)
        else match s.locate s.ag (Acc.load 8) va with
          | (.ok pl, s) => match homeKey pl with
            | some k =>
              if isDevKey k then match s.homeGate s.ag k 8 false pl (s.biGrant s.ag k 8 false) with
                | (.ok _, s) => .next (s.gateArm d c k)
                | (_, s) => .next (s.hold false va)
              else .next (s.gateArm d c k)
            | none => .next (s.ret d 11#64)
          | (.fault code det, s) =>
            if code = 0x13 ∨ code = 0x14 then .next (s.fault code va det) else .next (s.ret d 11#64)
          | (.page, s) => .next (s.hold true va)
          | (_, s) => .next (s.hold false va)

/-- A fired gate whose turn it is for its queue (R244). -/
def Clus.gateFirst (u : Clus) (g : Gate) : Bool :=
  match g.fired with
  | none => false
  | some n => !(u.gates.any fun h => h.cmd.matrix == g.cmd.matrix && match h.fired with | some m => decide (m < n) | none => false)

/-- GATE_ENTER_QUEUE (R244): fired entry n places its command once its queue has room. -/
def execGateEnterQueue (u n : Nat) (s : State) : Out :=
  let x := s.unit u
  match x.gates[n]? with
  | none => .next s
  | some g =>
    if x.gateFirst g = false then .next s
    else if g.cmd.matrix then
      if x.mq.length < 16 then
        .next (s.modUnit u fun y => { y with gates := y.gates.eraseIdx n, mq := y.mq ++ [g.cmd] })
      else .next s
    else if s.outFree u then
      .next (s.modUnit u fun y => { y with gates := y.gates.eraseIdx n, outq := y.outq ++ [g.cmd] })
    else .next s

end Sys2Proof.Machine
end

