-- ==== Sys2Proof/Machine/Iter.lean ====
section
/-! DEFINITION. The iteration fetcher: NEST, ITER, ITER.step (R365-R370). -/

namespace Sys2Proof.Machine

/-- The fields of a nest block (R365). -/
structure Nest where
  next : Nat
  e0 : Nat
  e1 : Nat
  e2 : Nat
  p : Nat
  f : Nat
  valid : Bool
  minc : Nat
  maxc : Nat
  total : Nat
  claims : Nat
  /-- every reserved bit is zero -/
  clean : Bool
  deriving DecidableEq, Repr

/-- The nest block in 64 bytes of memory (R365). -/
def Nest.ofMem (m : Mem) (k : Nat) : Nest :=
  let w (i : Nat) : Word := m.word (k + 8 * i)
  { next := bitsOf (w 0) 0 48, e0 := bitsOf (w 1) 0 32, e1 := bitsOf (w 1) 32 32, e2 := bitsOf (w 2) 0 32,
    p := bitsOf (w 2) 32 16, f := bitsOf (w 2) 48 4, valid := (w 2).getLsbD 63, minc := bitsOf (w 3) 0 32,
    maxc := bitsOf (w 3) 32 32, total := bitsOf (w 4) 0 48, claims := bitsOf (w 5) 0 32,
    clean := bitsOf (w 0) 48 16 == 0 && bitsOf (w 2) 52 11 == 0 && bitsOf (w 4) 48 16 == 0 && bitsOf (w 5) 32 32 == 0 &&
      w 6 == 0#64 && w 7 == 0#64 }
/-- Its bytes (R365). -/
def Nest.bytes (b : Nest) : List Byte :=
  leBytes 8 b.next ++ leBytes 4 b.e0 ++ leBytes 4 b.e1 ++ leBytes 4 b.e2 ++ leBytes 2 b.p ++
  leBytes 2 (b.f + if b.valid then 0x8000 else 0) ++ leBytes 4 b.minc ++ leBytes 4 b.maxc ++ leBytes 8 b.total ++
  leBytes 8 b.claims ++ leBytes 16 0

/-- The block that NEST's operands describe (R367). -/
def State.nestOperands (s : State) : Nest :=
  let a := s.e 0
  let b := s.e 1
  let c := s.e 2
  { next := 0, e0 := bitsOf a 0 32, e1 := bitsOf a 32 32, e2 := bitsOf b 0 32, p := bitsOf b 32 16, f := bitsOf b 48 4,
    valid := true, minc := bitsOf c 0 32, maxc := bitsOf c 32 32,
    total := bitsOf a 0 32 * bitsOf a 32 32 * bitsOf b 0 32, claims := 0, clean := bitsOf b 52 12 == 0 }
/-- Status 7 of NEST (R367). -/
def Nest.bad (n : Nest) : Bool :=
  n.e0 == 0 || n.e1 == 0 || n.e2 == 0 || decide (2 ^ 48 - 1 < n.total) || n.p == 0 || decide (7 < n.f) || n.minc == 0 ||
  decide (n.maxc < n.minc) || !n.clean

/-- The block of NEST or ITER (R367, R368): an address that leads to no device memory of the partition and no tarn has the
status `far`, and no gate of a window is consulted. -/
def State.nestBlock (s : State) (d : GReg) (a : Acc) (va far : Word) (f : Place → Nat → State → State) : State :=
  match s.locate s.ag a va with
  | (.ok pl, u) =>
    match homeKey pl with
    | none => u.ret d far
    | some k => s.threadAccess a va fun pl s => f pl k s
  | _ => s.threadAccess a va fun pl s => f pl 0 s

/-- NEST (R367). -/
def execNest (d a : GReg) (s : State) : Out :=
  .next (s.nestBlock d (Acc.vstore 64) (s.g a) 9#64 fun pl _ s =>
    if s.nestOperands.bad then s.ret d 7#64
    else (s.storeAt s.me.part s.me.vf none s.cur pl s.nestOperands.bytes false).ret d 0#64)

/-- A quotient whose divisor software has stored as 0 has no value the spec states: a free one (log 11). -/
def State.qdiv (s : State) (x y : Nat) : Nat × State :=
  if y = 0 then (Config.freeNat s.free, { s with free := s.free + 1 }) else (x / y, s)
def State.qmod (s : State) (x y : Nat) : Nat × State :=
  if y = 0 then (Config.freeNat s.free, { s with free := s.free + 1 }) else (x % y, s)

/-- i(n) written by the current instruction. -/
def State.setI (s : State) (n : Nat) (x : Word) : State := s.modCur fun c => c.modRegs fun r => r.setI n x
/-- An index register: the extent above, with the whole coordinate (R368). -/
def ixWord (ext x : Nat) : Word := BitVec.ofNat 64 (ext * 2 ^ 32 ||| x)

/-- The claim of R368 at a block of memory. -/
def State.iterClaim (s : State) (pl : Place) (k : Nat) (d : GReg) : State :=
  let b := Nest.ofMem s.mem k
  if b.valid = false ∨ b.clean = false then s.ret d 0x8000000000000001#64
  else
    let r := b.total - b.next
    if r = 0 then s.ret d 0#64
    else
      let (q, s) := s.qdiv (r + b.p * 2 ^ b.f - 1) (b.p * 2 ^ b.f)
      let c := min r (min b.maxc (max b.minc q))
      let (x0, s) := s.qmod b.next b.e0
      let (q1, s) := s.qdiv b.next b.e0
      let (x1, s) := s.qmod q1 b.e1
      let (x2, s) := s.qdiv b.next (b.e0 * b.e1)
      let s := s.storeAt s.me.part s.me.vf none s.cur pl ({ b with next := b.next + c, claims := (b.claims + 1) % 2 ^ 32 }.bytes) false
      (((s.setI 0 (ixWord b.e0 x0)).setI 1 (ixWord b.e1 x1)).setI 2 (ixWord b.e2 x2)).ret d (BitVec.ofNat 64 c)

/-- ITER (R368). -/
def execIter (d a : GReg) (s : State) : Out :=
  .next (s.nestBlock d { Acc.atomic 64 with vec := true } (s.g a) 0x8000000000000002#64 fun pl k s =>
    if s.placePoison pl 64 then s.fault 0x61 (s.g a) 0#64 else s.iterClaim pl k d)

/-- An extent of 0 reads as 2^32 (R369): no coordinate of 32 bits equals it (log 32). -/
def ixExt (x : Word) : Nat := if bitsOf x 32 32 = 0 then 2 ^ 32 else bitsOf x 32 32
/-- One coordinate advanced (R369): the new word, and whether it came round. -/
def ixStep (x : Word) : Word × Bool :=
  let n := (bitsOf x 0 32 + 1) % 2 ^ 32
  if n = ixExt x then (setBits x 0 32 0, true) else (setBits x 0 32 n, false)

/-- ITER.step (R369). -/
def execIterStep (s : State) : Out :=
  let i (n : Nat) : Word := s.cc.regs.getI n
  let a := ixStep (i 0)
  let b := if a.2 then ixStep (i 1) else (i 1, false)
  let c := if b.2 then setBits (i 2) 0 32 (bitsOf (i 2) 0 32 + 1) else i 2
  .next (((s.setI 0 a.1).setI 1 b.1).setI 2 c).done

end Sys2Proof.Machine
end

