-- ==== Sys2Proof/Machine/Partition.lean ====
section
/-! DEFINITION. The life of a partition: PF stores (R324, R325, R340, R345, R356, R357, R361), start (R326, R327), resets
(R343-R346) and VF resets (R297). -/

namespace Sys2Proof.Machine

/-- A word of partition p's descriptor set. -/
def State.setDesc (s : State) (p off : Nat) (x : Word) : State := s.pfSet (partBase p + off) x
/-- Fields of the descriptor (R324). -/
def State.busy (s : State) (p : Nat) : Bool := (s.desc p 0x08).getLsbD 63
def State.cmd (s : State) (p : Nat) : Nat := bitsOf (s.desc p 0x08) 0 8
def State.cmdArg (s : State) (p : Nat) : Nat := bitsOf (s.desc p 0x08) 8 8
def State.pstate (s : State) (p : Nat) : Nat := bitsOf (s.desc p 0x10) 0 2
def State.setPstate (s : State) (p n : Nat) : State := s.setDesc p 0x10 (setBits (s.desc p 0x10) 0 2 n)
def State.setResult (s : State) (p n : Nat) : State := s.setDesc p 0x10 (setBits (s.desc p 0x10) 8 8 n)
def State.setScan (s : State) (p n : Nat) : State := s.setDesc p 0x10 (setBits (s.desc p 0x10) 16 8 n)
/-- Status register of a bulkhead (R345): STATE 0 free, 1 in a partition, 2 failed. -/
def bsOff (b : Nat) : Nat := 0x30000 + 8 * b
def State.bstate (s : State) (b : Nat) : Nat := bitsOf (s.pfGet (bsOff b)) 0 2
def State.setBstate (s : State) (b n : Nat) : State := s.pfSet (bsOff b) (setBits (s.pfGet (bsOff b)) 0 2 n)
/-- BOOTST is running (R401): the device is in service. -/
def State.inService (s : State) : Bool := bitsOf (s.pfGet 0x10000) 0 4 == 2

/-- HNOTIFY (R328): one word to host memory, without a PASID. -/
def State.hnotify (s : State) (p : Nat) : State :=
  let a := (s.desc p 0x98).toNat
  if a = 0 then s
  else
    let w := p % 256 + s.pstate p * 2 ^ 8 + bitsOf (s.desc p 0x10) 8 8 * 2 ^ 16 + s.ts % 2 ^ 32 * 2 ^ 32
    s.storeAt p 0 none (0, 0) (.mem (hostKey a)) (leBytes 8 w) false
/-- A command is done: BUSY cleared, HNOTIFY written (R324, R328). -/
def State.commandDone (s : State) (p : Nat) : State := (s.setDesc p 0x08 (setBits (s.desc p 0x08) 63 1 0)).hnotify p

/-- PF stores that waited for the partition to be idle take effect (R324, R361); one of RMODE leaves a FULL that was set since. -/
def State.mergeLate (s : State) (p : Nat) : State :=
  let lo := pfKey (partBase p)
  let mine (x : Nat × Word) : Bool := decide (lo ≤ x.1) && decide (x.1 < lo + 512)
  let late (m : FMap Word) (x : Nat × Word) : Word :=
    if x.1 = pfKey (partBase p + 0xa00) then (fget 0#64 m x.1 &&& 4#64) ||| x.2 else x.2
  { s with
    pf := (s.pfLate.filter mine).foldl (fun m x => fput m x.1 (late m x)) s.pf
    pfLate := s.pfLate.filter fun x => !mine x }

/-- Everything inside some bulkheads is at its reset value (R141, R327, R344). -/
def State.clearBulks (s : State) (bs : List Nat) : State :=
  { s with
    cores := s.cores.filter fun c => !bs.contains (c.1 / 32)
    units := s.units.filter fun u => !bs.contains (u.1 / 8)
    bulks := s.bulks.filter fun b => !bs.contains b.1 }
/-- Their device memory and tarns are undefined (R141, R145, R344). -/
def State.forgetBulk (s : State) (b : Nat) : State :=
  (s.forget (devKey b 0) (devKey (b + 1) 0)).forget (tarnKey (8 * b) 0) (tarnKey (8 * (b + 1)) 0)

/-- Authority tables 0 and 1 (R301). -/
def authReset : FMap (BitVec 128) := [(0, mkAuth 4 0xff 0), (16, mkAuth 5 0x3f 1)]
/-- A bulkhead reset (R345): its rail, clock and reset line are cycled. -/
def State.cycleBulk (s : State) (b : Nat) (pass : Bool) : State :=
  ((s.clearBulks [b]).forgetBulk b).pfSet (bsOff b) (if pass then 0#64 else 2#64)

/-- A partition reset is over (R344): its bulkheads are free, STATE is idle, RESULT the cause, the authority tables are at their
reset values (R301). It waits for every request of the partition on the host links. The bulkhead resets that called for it follow
(R345). -/
def State.finishReset (s : State) (p : Nat) : State :=
  match (s.part p).resetCause with
  | none => s
  | some cause =>
    if s.hostOps.any fun o => o.part == p && o.ans == .pending then s
    else
      let bs := (s.part p).bulks
      let after := (s.part p).thenCycle
      let s := { s with proxy := s.proxy.filter (fun x => x.1 % 48 ≠ p), hostOps := s.hostOps.filter fun o => o.part ≠ p }
      let s := bs.foldl (fun s b => (s.forgetBulk b).setBstate b 0) (s.clearBulks bs)
      let s := (((s.modPart p fun _ => { Part.empty with auth := authReset, markers := (s.part p).markers }).setPstate p 0).setResult p cause).mergeLate p
      after.foldl (fun s x => s.cycleBulk x.1 x.2) (s.commandDone p)

/-- The PASIDs of some bulkheads' outstanding page requests, which a reset ends with Stop Markers (R332). -/
def State.stopMarkers (s : State) (bs : List Nat) : List Nat :=
  (bs.flatMap fun b => ((s.bulk b).reqs.filter fun q => q.st == 1).map fun q => q.pasid).eraseDups
/-- A partition reset begins (R344): gates closed, cores and engines stopped, a switch and a scan abandoned, nothing
recorded, Stop Markers sent. The code ranges stay sealed to the end. -/
def State.beginReset (s : State) (p cause : Nat) : State :=
  if (s.part p).resetCause.isSome then s.finishReset p
  else
    let x := s.part p
    let ms := s.stopMarkers x.bulks
    let s := (s.setPstate p 2).clearBulks x.bulks
    let s := { s with remoteOps := s.remoteOps.filter fun o => o.part ≠ p }
    let s := s.modPart p fun y =>
      { Part.empty with
        bulks := y.bulks, ranges := y.ranges, resetCause := some cause, thenCycle := y.thenCycle, markers := ms }
    s.finishReset p

/-- PARTITION_RESET (R344): command 2, or a reset in progress going on. -/
def execPartitionReset (p : Nat) (s : State) : Out :=
  if (s.part p).resetCause.isSome then .next (s.finishReset p)
  else if s.busy p && s.cmd p == 2 then .next (s.beginReset p 0x10)
  else .next s

/-- The partition of a bulkhead is reset, then the bulkhead (R345), whenever that reset ends. -/
def State.resetMember (s : State) (b cause : Nat) (pass : Bool) : State :=
  match s.ownerOf b with
  | some p => (s.modPart p fun y => { y with thenCycle := y.thenCycle ++ [(b, pass)] }).beginReset p cause
  | none => s.cycleBulk b pass

/-- BULKHEAD_RESET (R345): a store of RESET. -/
def execBulkheadReset (b : Nat) (pass : Bool) (s : State) : Out :=
  .next (if (s.pfGet (bsOff b)).getLsbD 8 then s.resetMember b 0x14 pass else s)
/-- BULKHEAD_FAULT (R345): a rail, clock or gate fault. -/
def execBulkheadFault (b : Nat) (pass : Bool) (s : State) : Out := .next (s.resetMember b 0x13 pass)
/-- UNCORRECTABLE_ERROR (R345). -/
def execUncorrectableError (b : Nat) (s : State) : Out :=
  .next (match s.ownerOf b with | some p => s.beginReset p 0x12 | none => s)
/-- OVERTEMP_RESET (R407): a die's six bulkheads, as for a rail fault. -/
def execOvertempReset (die : Nat) (pass : Bool) (s : State) : Out :=
  .next ((List.range 6).foldl (fun s i => s.resetMember (6 * die + i) 0x13 pass) s)

/-- The bulkheads of BMASK in ascending order: rank order (R3). -/
def State.bmask (s : State) (p : Nat) : List Nat := (List.range 48).filter fun b => (s.desc p 0x00).getLsbD b

/-- An area of R324 that is misaligned or does not lie in n bulkheads. -/
def areaBad (n : Nat) (a align len : Nat) : Bool := a % align != 0 || decide (n * 2 ^ 34 < a + len)
/-- The areas of R324. -/
def State.areasBad (s : State) (p n : Nat) : Bool :=
  let d (off : Nat) : Nat := (s.desc p off).toNat
  areaBad n (d 0x60) 64 65536 || areaBad n (d 0x68) 64 1024 || areaBad n (d 0x70) 64 8320 || areaBad n (d 0x78) 64 64 ||
  areaBad n (d 0x80) 64 (1536 * n) || areaBad n (d 0x88) (2 ^ 22) (n * 2 ^ 24) || (d 0x90 != 0 && areaBad n (d 0x90) 64 8)

/-- The TAGS that running partitions hold. -/
def State.tagsHeld (s : State) : Nat := (s.runningParts.map fun q => bitsOf (s.desc q 0x20) 0 9).sum
/-- The first RESULT that refuses a start (R326); 0 none. -/
def State.startResult (s : State) (p : Nat) : Nat :=
  let bs := s.bmask p
  let n := bs.length
  let a := (s.desc p 0x18).toNat
  let tags := bitsOf (s.desc p 0x20) 0 9
  let home := 4 * bs.headD 0
  if s.pstate p ≠ 0 then 1
  else if bs.isEmpty || bs.any fun b => s.bstate b != 0 then 2
  else if tags = 0 ∨ 256 < s.tagsHeld + tags then 3
  else if a % 2 ^ 34 ≠ 0 ∨ (s.runningParts.any fun q =>
      meets a (n * 2 ^ 34) (s.desc q 0x18).toNat ((s.part q).n * 2 ^ 34)) = true then 4
  else if s.areasBad p n then 5
  else if vfEnabled (s.vfEntry p home) = false then 6
  else 0

/-- Words of the areas that the start sets (log 30): slot table, pending bitmap, SHEAD, STAIL and SEQ, summary lines. -/
def State.clearAreas (s : State) (p : Nat) : State :=
  let x := s.part p
  let zero (s : State) (off n : Nat) : State := s.modMem fun m => m.setBytes (x.dpaKey off) (List.replicate n 0#8)
  let d (off : Nat) : Nat := (s.desc p off).toNat
  zero (zero (zero (zero s (d 0x68) 1024) (d 0x70) 128) (d 0x78 + 0x10) 24) (d 0x80) (1536 * x.n)

/-- Steps 1 to 3 of a start (R327), and its boot scan handed to the scanner (R337). The TS offset of a replay, and the TS of
a capture, are taken here (R361, R363). -/
def State.beginStart (s : State) (p : Nat) : State :=
  let bs := s.bmask p
  let home := 4 * bs.headD 0
  let d (off : Nat) : Nat := (s.desc p off).toNat
  let s := bs.foldl (fun s b => (s.forgetBulk b).setBstate b 1) (s.clearBulks bs)
  let off := if s.rmode p = 2 then (s.pfGet (rOff p 0xa20)).toNat + 2 ^ 64 - s.ts % 2 ^ 64 else 0
  let s := if s.rmode p = 1 then s.pfSet (rOff p 0xa20) (BitVec.ofNat 64 s.ts) else s
  let c : Scan :=
    { base := d 0x28, len := d 0x30, bitmap := d 0x38, status := 0#64, pasid := s.pasid p home, vf := home, bulk := bs.headD 0,
      tid := 0#32, pc := 0#64, faultLine := 0#64, noticed := [], boot := true, spoiled := false, pages := [], bmPages := [], result := none }
  (s.modPart p fun _ => { Part.empty with bulks := bs, auth := authReset, tsOffset := off, scan := some c }).clearAreas p

/-- A start refused by the scanner (R326): steps 1 to 3 undone. -/
def State.undoStart (s : State) (p status : Nat) : State :=
  let bs := (s.part p).bulks
  let s := bs.foldl (fun s b => (s.forgetBulk b).setBstate b 0) (s.clearBulks bs)
  ((((s.modPart p fun _ => Part.empty).setScan p status).setResult p 7).mergeLate p).commandDone p

/-- The registers of a steward or the root thread (R327). -/
def bootRegs (n p nb : Nat) (arg : Word) : Rec :=
  { Rec.empty with g1 := BitVec.ofNat 64 n, g2 := arg, g3 := BitVec.ofNat 64 (p + nb * 2 ^ 8), prio := 3#2, level := 3 }

/-- The PC that STEWPC or ROOTPC gives a record, whose bit 0 is always zero (R11, log 90). -/
def bootPc (x : Word) : Word := x &&& 0xfffffffffffffffe#64
/-- The steward of flat core n, bound to context 0 (R327, R304). -/
def State.makeSteward (s : State) (p n : Nat) : State :=
  let x := s.part p
  let k := x.coreOfFlat n
  let t := mkTid k 0 0#8
  let r : Rec :=
    { bootRegs n p x.n (s.desc p 0x50) with
      tid := t, state := .bound, pc := bootPc (s.desc p 0x48), table := 1#10, faultLine := s.desc p 0x58 + BitVec.ofNat 64 (64 * n)
      vf := x.homeVf, part := p, since := s.ts, place := some (k, 0) }
  (s.setSlot k 0 r).modCtx k 0 fun _ =>
    { Ctx.empty with bound := true, tid := t, pc := canon r.pc, regs := r.resumeRegs }
/-- The root thread, ready in the rank-0 bulkhead's deep core (R327). -/
def State.makeRoot (s : State) (p : Nat) : State :=
  let x := s.part p
  let k := x.coreOfFlat 0
  let t := mkTid k 255 0#8
  let r : Rec :=
    { bootRegs (24 * x.n) p x.n (s.desc p 0x50) with
      tid := t, state := .ready, pc := bootPc (s.desc p 0x40), table := 0#10
      faultLine := s.desc p 0x58 + BitVec.ofNat 64 (64 * 24 * x.n), vf := x.homeVf, part := p, since := s.ts, deep := true }
  let s := s.modCore k fun c => { c with nextGen := fput c.nextGen 255 1#8 }
  (s.setSlot k 255 r).joinQueue t

/-- A measurement register at PF offset 0x10040 + 64 i, and its extension by a digest (R402). -/
def measOff (i : Nat) : Nat := 0x10040 + 64 * i
def State.meas (s : State) (i : Nat) : List Byte :=
  (List.range 8).flatMap fun j => leBytes 8 (s.pfGet (measOff i + 8 * j)).toNat
def State.extend (s : State) (i : Nat) (digest : List Byte) : State :=
  let m := Config.shake256 64 (s.meas i ++ digest)
  (List.range 8).foldl (fun s j => s.pfSet (measOff i + 8 * j) (BitVec.ofNat 64 (leNat ((m.drop (8 * j)).take 8)))) s
/-- MEAS2 at an accepted start (R402): by the digest of p, then of BMASK, then of the boot range's contents (log 8). -/
def State.measureStart (s : State) (p : Nat) (c : Scan) : State :=
  let dig (bs : List Byte) : List Byte := Config.shake256 64 bs
  let boot := c.pages.flatMap fun k => s.mem.bytes (k * 65536) 65536
  ((s.extend 2 (dig (leBytes 8 p))).extend 2 (dig (leBytes 8 (s.desc p 0x00).toNat))).extend 2 (dig boot)

/-- Steps 4 to 7 of a start (R327). -/
def State.finishStart (s : State) (p : Nat) (c : Scan) : State :=
  let s := ((s.measureStart p c).scanEnd p c 0).setScan p 0
  let s := (List.range (24 * (s.part p).n)).foldl (fun s n => s.makeSteward p n) s
  ((s.makeRoot p).setPstate p 1).commandDone p

/-- PARTITION_START (R326, R327): command 1 is checked and begins; it ends once the scanner has judged the boot range. -/
def execPartitionStart (p : Nat) (s : State) : Out :=
  if (s.busy p && s.cmd p == 1) = false then .next s
  else match (s.part p).scan.filter fun c => c.boot with
    | some c => match c.result with
      | none => .next s
      | some r =>
        if c.spoiled && r.1 == 0 then .next (s.undoStart p 7)
        else if r.1 = 0 then .next (s.finishStart p c) else .next (s.undoStart p r.1)
    | none =>
      let s := s.setScan p 0
      let n := s.startResult p
      let s := s.setResult p n
      if n = 0 then .next (s.beginStart p) else .next (s.commandDone p)

/-- The threads of a VF: spilled ones first, then those in slots. -/
def State.vfThreads (s : State) (p v : Nat) : List Rec :=
  let l := (s.liveRecs p).filter fun r => r.vf == v && tidSlot r.tid != 0
  (l.filter fun r => r.state == .spilled) ++ l.filter fun r => r.state != .spilled
/-- A thread is freed without a record (R297); a TSTOP that waits for it finds it gone. -/
def State.kill (s : State) (r : Rec) : State :=
  let s := ((s.disarmAll r.tid).departAll r.part r.tid).dropSends r.tid
  let s := match r.place with
    | some (k, c) =>
      let l : List (Nat × Nat × Nat) := match (s.ctx k c).stop with | some st => st.callers | none => []
      l.foldl (fun (s : State) (y : Nat × Nat × Nat) => s.reply y.1 y.2.1 y.2.2 2#64) (s.release k c)
    | none => s
  s.freeRecord r.tid

/-- The tiles that a VF's commands in a cluster name. -/
def Clus.tilesOf (u : Clus) (v : Nat) : List Nat :=
  ((u.mq ++ u.resumed ++ (u.saved.map fun x => x.2) ++ (u.gates.map fun g => g.cmd)).filter fun c =>
    c.ofVf v && c.matrix && c.hasTile).map (fun c => c.tile) ++
  match u.run with
  | some r => if r.cmd.ofVf v then [r.cmd.tile] else []
  | none => []
/-- A command of another VF that runs holds a tile's lock (R73). -/
def Clus.lockedBy (u : Clus) (f : ECmd → Bool) (t : Nat) : Bool :=
  let on (c : ECmd) : Bool := f c && c.tile == t && c.phase != .waiting && c.phase != .faulted
  (u.mq.any fun c => c.hasTile && on c) || u.resumed.any on || u.run.any fun r => on r.cmd
/-- A cluster without a VF's commands (R228, R247): the tiles they name are zeroed, their locks clear but for those of other VFs'
commands, and a turn of the streamer that served one of them is over. -/
def Clus.dropVf (u : Clus) (v : Nat) : Clus :=
  let other (c : ECmd) : Bool := !c.ofVf v
  let w := { u with
    mq := u.mq.filter other, resumed := u.resumed.filter other, saved := u.saved.filter fun x => other x.2,
    run := u.run.bind fun r => if other r.cmd then some r else none, outq := u.outq.filter other, flying := u.flying.filter other,
    sq := u.sq.filter other, gates := u.gates.filter fun g => other g.cmd
    turn := u.turn.map fun x => if (u.sq.find? fun c => c.issuer.unit == x.1).any (ECmd.ofVf v) then (x.1, 0) else x }
  (u.tilesOf v).foldl (fun w t => (w.zeroTile t).setTile t fun x => { x with lock := x.lock && u.lockedBy other t }) w
/-- A DPLOAD of a VF that reads its image completes first, with no completion and no record (R228, R229); one held by a page request
is removed with the others. False while its read is out. -/
def State.dploadEnd (s : State) (u v : Nat) : Bool × State :=
  match (s.unit u).mq.findIdx? fun c => c.ofVf v && c.phase == .image with
  | none => (true, s)
  | some n => match (s.unit u).mq[n]? with
    | none => (true, s)
    | some c => match s.imageOf u c with
      | (.held page, s) => (page, s)
      | (.bad _, s) => (true, s.modUnit u fun x => (x.setProgram c.slot none).dropMq n)
      | (.good x, s) => (true, s.modUnit u fun y => (y.setProgram c.slot (some x)).dropMq n)
/-- The same of every unit of a partition. -/
def State.dploadsEnd (s : State) (p v : Nat) : Bool × State :=
  ((s.units.map fun x => x.1).filter fun u => (s.part p).bulks.contains (u / 8)).foldl (fun x u =>
    let (b, s) := x.2.dploadEnd u v
    (x.1 && b, s)) (true, s)
/-- A VF's commands and gate records removed (R297). -/
def State.dropVfCommands (s : State) (p v : Nat) : State :=
  let us := (s.units.map fun x => x.1).filter fun u => (s.part p).bulks.contains (u / 8)
  us.foldl (fun s u =>
    let gs := (s.unit u).gates.filter fun g => g.cmd.ofVf v
    let s := gs.foldl (fun s g => s.dropWatcher (keyBulk g.counter) (g.counter / 64) (.gate u g.id)) s
    s.modUnit u fun x => x.dropVf v) (s.forgetReads p v true)
/-- Gate records and saved state of a VF that is switched out. -/
def State.dropSavedVf (s : State) (p v : Nat) : State :=
  let vs := (s.part p).savedVfs.filter fun y => y.vf == v
  let s := vs.foldl (fun s y => y.units.foldl (fun s u => u.2.gates.foldl (fun s g =>
    s.dropWatcher (keyBulk g.counter) (g.counter / 64) (.gate u.1 g.id)) s) s) s
  s.modPart p fun x => { x with savedVfs := x.savedVfs.filter fun (y : SavedVf) => y.vf != v }

/-- Threads of a launch are still counted: in a flood, a share or a cluster's count (R29). -/
def State.counts (s : State) (p : Nat) (l : Launch) : Bool :=
  !l.heldShares.isEmpty || l.counting.any fun fc =>
    ((s.unit ((s.part p).clOfFlat fc)).launches.find? fun x => x.1 == l.id).all fun x => x.2 != 0
/-- Launches end with status 0x0008 (R297): those of the VF with threads still counted when the reset began. One whose threads have all
ended keeps the decrements that are due (R29). -/
def State.endLaunches (s : State) (p : Nat) (ls : List Launch) : State :=
  let s := ls.foldl (fun s l => s.launchWrite p (l.words.getD 2 0#64 + 8#64) 8#64 l.queueVf (((s.slot p l.slot).queue).getD 0)) s
  let ids := ls.map fun l => l.id
  let s := { s with units := s.units.map fun (u : Nat × Clus) =>
    if (s.part p).bulks.contains (u.1 / 8) then (u.1, { u.2 with launches := u.2.launches.filter fun x => !ids.contains x.1 }) else u }
  s.modPart p fun x => { x with launches := x.launches.filter fun l => !ids.contains l.id }

/-- Slots that map a VF's queues unmapped, and the pending bits of its queues cleared (R297). -/
def State.unmapVf (s : State) (p v : Nat) : State :=
  let mine (q : Nat) : Bool := (s.queueDesc p q).vf == v
  let s := (List.range 64).foldl (fun s i =>
    match (s.slot p i).queue with
    | some q =>
      if mine q then
        let k := s.slotKey p i + 8
        (s.setSlotState p i Slot.empty).unitWrite p k (leBytes 8 (s.mem.num k 8 - s.mem.num k 8 / 2 ^ 10 % 2 * 2 ^ 10))
      else s
    | none => s) s
  (List.range 1024).foldl (fun s q => if mine q then s.pendClear p q else s) s

/-- The calls of a VF that are not done (R297): keys of their ring entries. -/
def State.openCalls (s : State) (p v : Nat) : List Nat :=
  let d := s.svcDesc p
  if d.bad then []
  else ((List.range (min d.used (2 ^ d.k))).map fun i => s.svcEntry p d (d.tail + i)).filter fun k =>
    s.mem.num (k + 2) 1 == v && (s.mem.num k 2 != 0xffff && s.mem.num k 2 != 0xfffe) && s.mem.num (k + 0x38) 1 % 2 == 0
/-- The agent that writes a killed caller's reply line. -/
def State.replyAgent (s : State) (p v : Nat) : Agent := s.queueAgent p v 2000
/-- Whether every reply line of those calls can be reached or has been refused; requests are sent for the others. -/
def State.repliesReady (s : State) (p v : Nat) : List Nat → Bool × State
  | [] => (true, s)
  | k :: l =>
    let (a, s) := match s.access (s.replyAgent p v) (Acc.store 8) (s.mem.word (k + 8)) with
      | (.ok _, s) => (true, s)
      | (.fault _ _, s) => (true, s)
      | (_, s) => (false, s)
    let (b, s) := s.repliesReady p v l
    (a && b, s)
/-- One such call is killed (R297). -/
def State.killCall (s : State) (p v k : Nat) : State :=
  let line := s.mem.word (k + 8)
  let s := match s.access (s.replyAgent p v) (Acc.store 8) line with
    | (.ok pl, s) => s.agentStore p v pl (leBytes 8 0xfffffffe) false
    | (_, s) => s.vlogAppend ((s.part p).bulkOf 0) line.toNat 4 4 0
  s.unitWrite p (k + 0x38) (leBytes 8 3)

/-- A switch request that names a VF is cancelled before S, with status 2 (R339). -/
def State.cancelSwitch (s : State) (p v : Nat) : Option State :=
  match (s.part p).switch with
  | none => some s
  | some w =>
    if w.vf ≠ v ∧ (s.part p).running ≠ some v ∧ w.outgoing ≠ some v then some s
    else if w.begun.isSome || decide (w.at_ ≤ s.tsOf p) then none
    else match s.statusLine (w.agent p (.switch p)) w.line [2#64, 0#64, 0#64, 0#64, 0#64, 0#64, 0#64, 0#64] with
      | (true, s) => some (s.endSwitch p)
      | (false, _) => none

/-- A VF reset (R297), in one step once it may take place. -/
def State.vfReset (s : State) (p v : Nat) : Option State :=
  match s.cancelSwitch p v with
  | none => none
  | some s =>
    let calls := s.openCalls p v
    let (loads, s) := s.dploadsEnd p v
    match s.repliesReady p v calls with
    | (false, _) => none
    | (true, s) =>
      if loads = false then none else
      let due := (s.part p).launches.filter fun l => l.vf == v && s.counts p l
      let s := s.dropSavedVf p v
      let s := (s.vfThreads p v).foldl (fun s r => s.kill r) s
      let s := (((s.dropVfCommands p v).endLaunches p due).unmapVf p v)
      let s := calls.foldl (fun s k => s.killCall p v k) s
      let s := s.modPart p fun x =>
        { x with
          running := if x.running = some v then none else x.running
          next := if x.next = some v then none else x.next
          resumeDue := (x.resumeDue.filter fun y => y ≠ v) ++ [v] }
      some (s.notice p 0xffff v)
/-- The requests that a VF reset waits for are sent. -/
def State.vfResetAsk (s : State) (p v : Nat) : State :=
  let s := match (s.part p).switch with
    | some w => if w.begun.isNone && decide (s.tsOf p < w.at_) then (s.access (w.agent p (.switch p)) (Acc.store 8) w.line).2 else s
    | none => s
  (s.dploadsEnd p v).2.repliesReady p v (s.openCalls p v) |>.2

/-- VF_RESET (R297, R343): command 3; that of the home VF resets the partition. With none outstanding, notices that wait for
ring room are tried again. -/
def execVfReset (p : Nat) (s : State) : Out :=
  if s.partRunning p = false then
    if s.busy p && s.cmd p == 3 && (s.part p).resetCause.isNone then .next ((s.setResult p 0).commandDone p) else .next s
  else if (s.busy p && s.cmd p == 3) = false then .next (s.flushNotices p)
  else
    let v := s.cmdArg p
    if (s.part p).owns v = false then .next ((s.setResult p 0).commandDone p)
    else if v = (s.part p).homeVf then .next (s.beginReset p 0x11)
    else match s.vfReset p v with
      | some s => .next ((s.setResult p 0).commandDone p)
      | none => .next (s.vfResetAsk p v)

/-- FUNCTION_LEVEL_RESET (R343); a reset that no command requested writes HNOTIFY when it completes (R328). -/
def execFunctionLevelReset (vf : Nat) (s : State) : Out :=
  match s.partOf (vf / 4) with
  | none => .next s
  | some p =>
    if vf = (s.part p).homeVf then .next (s.beginReset p 0x11)
    else match s.vfReset p vf with
      | some s => .next (s.hnotify p)
      | none => .next (s.vfResetAsk p vf)

/-- Defined bits of a descriptor word (R324); read-only and reserved words have none. -/
def descMask (off : Nat) : Word :=
  if off = 0 then BitVec.ofNat 64 (2 ^ 48 - 1)
  else if off = 0x20 then 0x1ff#64
  else if off = 0x18 ∨ (0x28 ≤ off ∧ off ≤ 0x98) then BitVec.allOnes 64
  else 0#64
/-- A store to CMD (R324): ignored while BUSY. -/
def State.cmdStore (s : State) (p : Nat) (x : Word) : State :=
  if s.busy p then s
  else
    let c := bitsOf x 0 8
    s.setDesc p 0x08 (BitVec.ofNat 64 (c + bitsOf x 8 8 * 2 ^ 8 + if c = 1 ∨ c = 2 ∨ c = 3 then 2 ^ 63 else 0))
/-- A store that takes effect only while the partition is idle (R324, R361). -/
def State.idleStore (s : State) (p off : Nat) (x : Word) : State :=
  if s.pstate p = 0 ∧ (s.part p).bulks.isEmpty then s.pfSet off x else { s with pfLate := fput s.pfLate (pfKey off) x }
/-- Defined bits of remote-window words (R357). -/
def rwMask (off : Nat) : Word :=
  match off % 32 with
  | 0 => 0x0000ffff00003f07#64
  | 8 => 0x0000ffffffffffff#64
  | 16 => BitVec.allOnes 64
  | 24 => 0xff#64
  | _ => 0#64
/-- A PF store in a partition window (R324, R357, R361): STATE, RESULT and SCAN are the device's. -/
def State.windowStore (s : State) (p off : Nat) (x : Word) : State :=
  let a := partBase p + off
  if off = 0x08 then s.cmdStore p x
  else if off = 0x10 then s
  else if off < 0x100 then s.idleStore p a (x &&& descMask off)
  else if 0x800 ≤ off ∧ off < 0xa00 then s.pfSet a (x &&& rwMask off)
  else if off = 0xa00 then (s.pfSet a (setBits (s.pfGet a) 2 1 0)).idleStore p a (x &&& 3#64)
  else if 0xa08 ≤ off ∧ off ≤ 0xa20 then s.pfSet a x
  else s

/-- REGISTER_WRITE (R7, R324, R345, R356, R357, R361, R408): an aligned 64-bit PF store to a register without an event of
its own. -/
def execRegisterWrite (off : Nat) (x : Word) (s : State) : Out :=
  if s.inService = false ∨ off % 8 ≠ 0 then .next s
  else if 0x40000 ≤ off ∧ off < 0x40000 + 0x1000 * 48 then .next (s.windowStore ((off - 0x40000) / 0x1000) (off % 0x1000) x)
  else if 0x30000 ≤ off ∧ off < 0x30000 + 8 * 48 then
    .next (if x.getLsbD 8 then s.pfSet off (s.pfGet off ||| 0x100#64) else s)
  else if off = 0x20000 then .next (s.pfSet off (x &&& 0xffff#64))
  else if 0x10200 ≤ off ∧ off ≤ 0x10220 then .next (s.pfSet off x)
  else if off = 0x10228 then
    .next (if x.getLsbD 0 && !(s.pfGet off).getLsbD 0 then
      { s.pfSet off 1#64 with quoteAt := s.ts, quoteMeas := s.meas 0 ++ s.meas 1 ++ s.meas 2 } else s)
  else .next s

/-- Something of a VF is alive (R325): a thread, an engine command, a mapped queue. -/
def State.vfInUse (s : State) (p v : Nat) : Bool :=
  ((s.liveRecs p).any fun r => r.vf == v) ||
  (s.units.any fun u => (s.part p).bulks.contains (u.1 / 8) &&
    (u.2.mq ++ u.2.resumed ++ u.2.outq ++ u.2.flying ++ u.2.sq ++ (u.2.saved.map fun x => x.2) ++ u.2.gates.map fun g => g.cmd).any
      (ECmd.ofVf v) || (match u.2.run with | some r => r.cmd.ofVf v | none => false)) ||
  ((s.part p).savedVfs.any fun y => y.vf == v) ||
  ((s.part p).slots.any fun x => match x.2.queue with | some q => (s.queueDesc p q).vf == v | none => false)

/-- VF_TABLE_WRITE (R325): a PF store to a VF's entry in the window of partition p. -/
def execVfTableWrite (port p vf : Nat) (x : Word) (s : State) : Out :=
  if s.inService = false then .next s
  else if s.partRunning p && (s.part p).owns vf && s.vfInUse p vf then .next (s.vlogAppend (vf / 4) (vfOff p vf) 1 2 port)
  else .next (s.pfSet (vfOff p vf) (x &&& 0x0fffff0f#64))

/-- WINDOW_TABLE_WRITE (R340): an access through the entry is performed in the step that admits it, so none is under way. -/
def execWindowTableWrite (p w : Nat) (hi : Bool) (x : Word) (s : State) : Out :=
  if s.inService = false then .next s
  else .next (s.pfSet (partBase p + 0x100 + 16 * w + if hi then 8 else 0)
    (x &&& if hi then 0x0000ffffffffffff#64 else 0x3f03#64))

end Sys2Proof.Machine
end

