-- ==== Sys2Proof/Machine/Links.lean ====
section
/-! DEFINITION. What reaches the homes from outside a core (R148, R151, R152, R341, R349, R352, R358), the host links and
reed ports (R350-R360), and the injection of a replay (R363). -/

namespace Sys2Proof.Machine

/-- What waited for a back-invalidation or a grain change tries again: contexts and records. -/
def State.homeMoved (s : State) : State := s.bulks.foldl (fun s b => s.retryRecs b.1) (s.unhold (List.range 48))

/-- A device key lies in page `page` of its bulkhead and is homed by slice `slice` (R144). -/
def inSlice (bh page slice k : Nat) : Bool :=
  isDevKey k && keyBulk k == bh && k % 2 ^ 34 / 65536 == page && channelOf (k % 2 ^ 34) == slice
/-- A slice recalls every cached copy of a page's units that it homes (R148). -/
def State.recallPage (s : State) (bh page slice : Nat) : State :=
  -- dirty data goes home first
  let dirty := s.cores.flatMap fun (c : Nat × Core) =>
    (c.2.l1.filter fun x => inSlice bh page slice x.1 && (x.2 == .m || x.2 == .o)).map fun x => x.1
  let s := dirty.foldl (fun s u => s.l2Fill bh u (s.unitLen u) true) s
  let s := { s with cores := s.cores.map fun (c : Nat × Core) =>
    (c.1, { c.2 with l1 := c.2.l1.filter fun x => !inSlice bh page slice x.1 }) }
  let clean (d : Nat × Dir) : Nat × Dir :=
    if !isHostKey (64 * d.1) && inSlice bh page slice (512 * d.1) then (d.1, { d.2 with owner := [], sharers := [], many := [] }) else d
  s.modBulk bh fun b => { b with dir := b.dir.map clean, saving := b.saving.filter fun x => !inSlice bh page slice x.1 }

/-- The store that waits for its grain changes is performed (R148): no slice has one of its pages to change. -/
def State.grainDone (s : State) (core ctx : Nat) : State :=
  if s.bulks.any fun b => b.2.grainReqs.any fun r => r.core == core && r.ctx == ctx then s
  else if (s.ctx core ctx).wait = .grain then
    let n := match s.fetch core ctx with | .instr _ n => n | _ => 4
    let s := if (s.ctx core ctx).scOpen then s.count core 8 (some ctx) 1 else s
    s.modCtx core ctx fun c => c.retire (c.pc + BitVec.ofNat 64 n)
  else s

/-- GRAIN_CHANGE (R148): one slice holds, recalls and switches the oldest page it has yet to change. -/
def execGrainChange (bh slice : Nat) (s : State) : Out :=
  match (s.bulk bh).grainReqs.find? fun r => !r.done.getLsbD slice with
  | none => .next s
  | some r =>
    let s := s.recallPage bh r.page slice
    let r' := { r with done := r.done ||| BitVec.ofNat 8 (2 ^ slice) }
    let step (q : GrainReq) : Option GrainReq := if q = r then (if r'.done = 0xff#8 then none else some r') else some q
    let s := s.modBulk bh fun b =>
      { b with grain := fset 0#2 b.grain (8 * r.page + slice) r.grain, grainReqs := b.grainReqs.filterMap step }
    if r'.done = 0xff#8 then .next ((s.grainDone r.core r.ctx).homeMoved) else .next s

/-- A request for a host line that the proxy home holds (R144, R149-R151). Ownership toward the host comes with a store. -/
def State.hostCoherence (s : State) (p core k : Nat) (c : CohKind) : State :=
  match c with
  | .read => if s.proxyGet p (hostLineOf k) = .i then s else s.hostShare p core k
  | .own => if s.proxyGet p (hostLineOf k) = .e ∨ s.proxyGet p (hostLineOf k) = .m then s.hostOwn p core k else s
  | .writeBack => s.l1Leave core (hostUnit k)
  | .drop => if s.l1Get core (hostUnit k) = .e ∨ s.l1Get core (hostUnit k) = .s then s.l1Leave core (hostUnit k) else s
  | .recall => s.hostRecall p k none
  | _ => s

/-- COHERENCE_REQUEST (R150, R151): a core's read, ownership request, write-back or eviction of the unit at a device key,
or a recall by the home; or of a host line, by the proxy home. A request for a line the host holds sends the back-invalidation (R352). A block of any memory
is verified (R355); one of device memory takes the mark of an HBM error (R353). -/
def execCoherenceRequest (core addr : Nat) (k : CohKind) (s : State) : Out :=
  let u := s.unitOf addr
  match s.partOf (core / 32) with
  | none => .next s
  | some p =>
    if keyHasFe addr = true ∧ (s.part p).bulks.contains (keyBulk addr) = false then .next s
    else if isDevKey addr = false then
      match k with
      | .verify check source unit => .next (s.verifyBlock p core addr check source unit)
      | _ => .next (if isHostKey addr then s.hostCoherence p core addr k else s)
    else
      let n := grainBytes (s.grainOf addr)
      let i : OutReq := .coherence core addr k
      match k with
      | .read => s.outsideGate u n false true i fun s => .next (s.cohRead core u)
      | .own => s.outsideGate u n true true i fun s => .next (s.cohOwn core u)
      | .writeBack => s.outsideGate u n false false i fun s => .next (s.l1Leave core u)
      | .drop => s.outsideGate u n false false i fun s =>
          .next (if s.l1Get core u = .e ∨ s.l1Get core u = .s then s.l1Leave core u else s)
      | .recall => s.outsideGate u n false false i fun s => .next (s.cohRecall u)
      | .verify check source unit => .next (s.verifyBlock p core addr check source unit)
      | .uncorrectable => .next (s.modMem fun m => m.setPoison (addr / 64) true)

/-- The L1 copies of a host line are clean and shared (R152): a snoop that leaves the line in S. -/
def State.hostClean (s : State) (p k : Nat) : State :=
  let u := hostUnit k
  let own (c : Nat) : Bool := (s.part p).bulks.contains (c / 32)
  let l := s.holders own u .e ++ s.holders own u .m ++ s.holders own u .o
  (l.foldl (fun s c => s.l1Set c u .s) s).modDir (s.hostHome p k) (dirKey u) fun d => d.demote u l

/-- HOST_SNOOP (R152, R157, R352): the host takes or shares a host line of partition p's proxy home. A line with an armed
watch is requested again at once. The L1 copies are cleaned, or recalled, first. A host write to a line not held is seen by
no one. -/
def execHostSnoop (p line : Nat) (k : SnoopKind) (s : State) : Out :=
  let key := 2 ^ 64 + 64 * line
  let held := s.proxyGet p line != .i
  match k with
  | .share => .next (if held then (s.hostClean p key).proxySet p line .s else s)
  | .take wrote =>
    let rs := ((s.hostOps.filter fun x => x.own && x.write && x.onLine key).flatMap fun x => x.newer).map fun r => (r.1, r.2.1)
    let s := match wrote with
      | some v => s.modMem fun m =>
          if rs.isEmpty then m.store key (leBytes 64 v.toNat) false else m.setExcept rs key (leBytes 64 v.toNat)
      | none => s
    if held = false then .next s
    else .next ((s.proxyLeave p key).lineWritten ((s.part p).proxyHome (64 * line)) (key / 64) key 64)

/-- Dirty data of a line comes home with its mark (R352, R353), but for bytes that the device's own units have written since (log 104). -/
def State.biLand (s : State) (bh line : Nat) (v : Vec) (poison : Bool) : State :=
  let k := 64 * line
  let rs := (s.bulk bh).biOver.filter fun r => r.1 / 64 == line
  let s := s.l2Fill bh k 64 true
  if rs.isEmpty then s.writeMem k (leBytes 64 v.toNat) poison
  else
    (s.modMem fun m => let m := m.setExcept rs k (leBytes 64 v.toNat); if poison then m.setPoison line true else m).written k 64
/-- BIRSP (R352): the answer to a back-invalidation: dirty data goes to the home, a write as any other (R157, R243), refused and
logged on a sealed page (R52); an invalid answer clears HC. -/
def execBirsp (bh line : Nat) (inv : Bool) (dirty : Option (Vec × Bool)) (s : State) : Out :=
  let st := fget 0 (s.bulk bh).bisnp line
  if st ≠ 1 ∧ st ≠ 2 then .next s
  else
    let s := match dirty with
      | some (v, poison) =>
        let k := 64 * line
        if s.sealed k then s.vlogAppend bh ((s.part ((s.partOf bh).getD 48)).keyDpa k) 1 2 ((s.partOf bh).getD 0 % 2)
        else s.biLand bh line v poison
      | none => s
    let s := s.modBulk bh fun b => { b with biOver := b.biOver.filter fun r => r.1 / 64 ≠ line }
    let s := if inv ∨ st = 2 then
        (s.modBulk bh fun b => { b with bisnp := fdel b.bisnp line }).modDir bh (dirKey (64 * line)) fun d =>
          { d with hc := d.hc &&& ~~~(BitVec.ofNat 8 (2 ^ (line % 8))) }
      else s.modBulk bh fun b => { b with bisnp := fput b.bisnp line 3 }
    .next s.homeMoved

/-- The home takes back dirty copies of the units of n bytes from k before the host reads them (R152). -/
def State.hostRead (s : State) (k n : Nat) : State :=
  let us := ((List.range (n + 31)).map fun i => s.unitOf (k + i)).eraseDups
  let give (l : FMap L1State) (u : Nat) : FMap L1State :=
    match fget .i l u with
    | .m => fdel l u
    | .o => fdel l u
    | .e => fput l u .s
    | _ => l
  let dir (s : State) (u : Nat) : State := s.modDir (keyBulk u) (dirKey u) fun d =>
    { d with owner := fdel d.owner u }.demote u (s.holders (fun _ => true) u .e)
  let s := us.foldl dir s
  { s with cores := s.cores.map fun (c : Nat × Core) => (c.1, { c.2 with l1 := us.foldl give c.2.l1 }) }
/-- A host read with caching intent sets the host bits, in entries of blocks that the L2 holds (R149, R352); what the host answered of
an earlier copy stands no longer. -/
def State.setHc (s : State) (k n : Nat) : State :=
  let b := keyBulk k
  (List.range ((k + n - 1) / 64 + 1 - k / 64)).foldl (fun s i =>
    let line := k / 64 + i
    let s := s.l2Fill b (64 * line) 64 false
    if s.l2Room b (dirKey (64 * line)) then
      (s.modBulk b fun x => { x with bisnp := fdel x.bisnp line }).modDir b (dirKey (64 * line)) fun d =>
        { d with hc := d.hc ||| BitVec.ofNat 8 (2 ^ (line % 8)) }
    else s) s
/-- The first block of n bytes from k for which the L2 has no way and may evict none (R141, R156). -/
def State.hcFull (s : State) (k n : Nat) : Option Nat :=
  ((List.range ((k + n - 1) / 512 + 1 - k / 512)).map fun i => k / 512 + i).find? fun d =>
    !(s.l2Room (keyBulk k) d) && (s.l2Victims (keyBulk k) d).isEmpty
/-- A way is taken back from the host for a block: the lines of one whose host bits keep it are back-invalidated (R352, log 106). -/
def State.hcMake (s : State) (b d : Nat) : State :=
  match (s.bulk b).dir.find? fun x => s.sameSet b x.1 d && x.2.inl.isEmpty && x.2.hc != 0#8 with
  | none => s
  | some x => s.biSend (512 * x.1) (s.hcLines (512 * x.1) 512) true

/-- A write from outside at the home (R349, R341, R358): copies recalled, bytes and marks written. -/
def State.outsideWrite (s : State) (k : Nat) (bs : List Byte) (poison : Bool) : State := (s.recallAll k bs.length).writeMem k bs poison

/-- Some byte of a range is on a sealed page. -/
def State.sealedRange (s : State) (k n : Nat) : Bool := s.sealed k || s.sealed (k + n - 1)

/-- The device key of n bytes of a running partition's aperture at a physical address (R349); within 4 KiB. -/
def State.hostKeyOf (s : State) (pa n : Nat) : Option (Nat × Nat) :=
  if n = 0 ∨ 4096 < pa % 4096 + n then none
  else (s.runningParts.find? fun p => s.inAperture p pa).map fun p => (p, (s.part p).dpaKey (pa - (s.desc p 0x18).toNat))

/-- HOST_MEMORY_REQUEST (R349): a host read or write of device memory through BAR2. The host caches a line only on a port with host
caching (R351), and waits for a way of the L2 to hold its host bit. -/
def execHostMemoryRequest (port pa : Nat) (r : HostReq) (s : State) : Out :=
  match r with
  | .read n cache =>
    match s.hostKeyOf pa n with
    | none => .next s
    | some (_, k) => s.outsideGate k n false false (.host port pa r) fun s =>
        if cache && s.portHdm.getD port false then match s.hcFull k n with
          | some d => .next ((s.hcMake (keyBulk k) d).homeJoin (keyBulk k) (s.unitsLo k) (s.unitsHi k n) (some (.outside (.host port pa r))))
          | none => .next ((s.hostRead k n).setHc k n)
        else .next (s.hostRead k n)
  | .write bs poison =>
    match s.hostKeyOf pa bs.length with
    | none => .next s
    | some (p, k) => s.outsideGate k bs.length true false (.host port pa r) fun s =>
      if s.replaying p then .next (s.vlogAppend (keyBulk k) pa 1 2 port)
      else
        let s := s.capture p 1 ((s.part p).keyDpa k) port bs
        if s.sealedRange k bs.length then .next (s.vlogAppend (keyBulk k) pa 1 2 port)
        else .next (s.outsideWrite k bs poison)

/-- HOST_ATOMICOP (R348, R349): one indivisible step at the home. A 128-bit CAS completes with UR. -/
def execHostAtomicop (port pa : Nat) (op : HostAtomic) (dbl : Bool) (x y : Word) (s : State) : Out :=
  let n := if dbl then 8 else 4
  match s.hostKeyOf pa n with
  | none => .next s
  | some (p, k) =>
    if op = .cas128 ∨ pa % n ≠ 0 then .next s
    else s.outsideGate k n true false (.hostAtomic port pa op dbl x y) fun s =>
    if s.replaying p || s.sealed k then .next (s.vlogAppend (keyBulk k) pa 1 2 port)
    else if s.mem.poisoned k n then .next s
    else
      let old := s.mem.num k n
      let x := x.toNat % 2 ^ (8 * n)
      let new := match op with
        | .fetchAdd => (old + x) % 2 ^ (8 * n)
        | .swap => x
        | .cas => if old = x then y.toNat % 2 ^ (8 * n) else old
        | .cas128 => old
      .next (s.outsideWrite k (leBytes n new) false)

/-- CROSS_BULKHEAD_ACCESS (R341, R342): the exporter's gate admits or refuses an access of partition imp. An instruction of
the importer passes this gate in its own step; this turn is an access that reaches the gate by itself (log 1). -/
def execCrossBulkheadAccess (imp exp dpa : Nat) (r : HostReq) (s : State) : Out :=
  if s.partRunning exp = false ∨ s.partRunning imp = false ∨ imp = exp then .next s
  else
    let write := match r with | .write _ _ => true | .read _ _ => false
    let n := match r with | .write bs _ => bs.length | .read n _ => n
    let k := (s.part exp).dpaKey dpa
    let refuse (s : State) : State := s.vlogAppend ((s.part exp).bulkOf (min (dpa / 2 ^ 34) ((s.part exp).n - 1))) dpa 1 0 0
    if s.windowAdmits exp imp dpa write = false ∨ n = 0 ∨ 4096 < dpa % 4096 + n then .next (refuse s)
    else s.outsideGate k n write true (.cross imp exp dpa r) fun s => match r with
      | .read _ _ => .next (s.hostRead k n)
      | .write bs poison => if s.sealedRange k n then .next (refuse s) else .next (s.outsideWrite k bs poison)

/-- What waited for the links of a partition goes on: contexts, records, completion writes, statuses (R160, R317, R183, R25). -/
def State.linkMoved (s : State) (p : Nat) : State := if (s.part p).bulks.isEmpty then s else s.answered p

/-- The fault that an answer stands for, and its DETAIL unless that is the element's number. -/
def Answer.fault : Answer → Option (Nat × Option Nat)
  | .data _ => none
  | .owned => none
  | .poison => some (0x61, none)
  | .error code d => some (code, if code = 0x34 ∨ code = 0x35 then some d else none)
/-- It brings what was asked for. -/
def Answer.good (a : Answer) : Bool := a.fault.isNone

/-- The answer that has come for the line of a key, with its base. -/
def answerAt (got : List (Nat × Answer)) (key : Nat) : Option (Nat × Answer) := got.find? fun x => x.1 / 64 == key / 64
/-- What is wrong with an element, and its n bytes. -/
def LinkElem.fault (got : List (Nat × Answer)) : LinkElem → Option (Nat × Option Nat)
  | .here _ bad => if bad then some (0x61, none) else none
  | .far key => (answerAt got key).bind fun x => x.2.fault
def LinkElem.bytes (got : List (Nat × Answer)) (n : Nat) : LinkElem → List Byte
  | .here bs _ => bs
  | .far key => match answerAt got key with
    | some (b, .data bs) => (bs.drop (key - b)).take n
    | _ => []
/-- The lowest element that is a fault, from element j on (R166): its number, code and DETAIL. -/
def firstFault (got : List (Nat × Answer)) : Nat → List LinkElem → Option (Nat × Nat × Word)
  | _, [] => none
  | j, e :: l => match e.fault got with
    | some (code, d) => some (j, code, BitVec.ofNat 64 (d.getD j))
    | none => firstFault got (j + 1) l

/-- The L1 of a core takes the host lines that came for elements (R149, R150). -/
def State.linkFill (s : State) (p core : Nat) (els : List LinkElem) : State :=
  els.foldl (fun s e => match e with
    | .far key => (s.l1Load p core 64 (.mem key)).2
    | _ => s) s
/-- An atomic whose answer has come (R171-R173): performed by the other side, which gives the old value, or in the line that the
proxy home owns now. -/
def State.answerAtomic (s : State) (o : HostOp) (a : Answer) (op : ProdOp) : ProdState × State :=
  match a with
  | .data bs =>
    let old := leNat (bs.take op.width)
    (.valueG (BitVec.ofNat 64 old), s.landAtomic o op.width (op.update old))
  | .owned =>
    if s.mem.poisoned o.key op.width then (.fault 0x61 (op.addr 0) 0#64, s)
    else
      let (old, s) := s.atomicAt o.part o.vf (.mem o.key) op.width op.update
      (.valueG (BitVec.ofNat 64 old), s)
  | _ => (.fault 0x61 (op.addr 0) 0#64, s)

/-- A producer after the answer to an operation (R63, R160, R166): it waits for its other answers, then faults, or has its value. -/
def State.answerProd (s : State) (o : HostOp) (a : Answer) (pr : Producer) : ProdState × State :=
  match pr.st with
  | .link ids got els =>
    let ids := ids.filter fun x => x ≠ o.id
    let got := got ++ [(o.base, a)]
    if !ids.isEmpty then (.link ids got els, s)
    else match firstFault got 0 els with
      | some (j, code, d) => (.fault code (pr.op.addr j) d, s)
      | none =>
        if o.atomic then s.answerAtomic o a pr.op
        else (pr.op.value (els.map (LinkElem.bytes got pr.op.width)), s.linkFill o.part o.core els)
  | st => (st, s)

/-- A producer waits for an operation. -/
def Producer.waitsFor (id : Nat) (pr : Producer) : Bool :=
  match pr.st with
  | .link ids _ _ => ids.contains id
  | _ => false
/-- The answer reaches its producer, in the context that issued it or in the saved image of that context, for which a TSTOP may
wait (R287, R292). -/
def State.linkAnswer (s : State) (o : HostOp) (a : Answer) : State :=
  let mine := Producer.waitsFor o.id
  let x := s.ctx o.core o.ctx
  match x.inflight.findIdx? mine with
  | some n => match x.inflight[n]? with
    | some pr => let (st, s) := s.answerProd o a pr; s.modCtx o.core o.ctx fun y => y.setProd n st
    | none => s
  | none =>
    let saved := s.parts.flatMap fun p => p.2.savedVfs.flatMap fun v => v.ctxs
    match saved.find? fun y => y.1 == o.core && y.2.1 == o.ctx && y.2.2.inflight.any mine with
    | none => s
    | some y =>
      let n := (y.2.2.inflight.findIdx? mine).getD 0
      match y.2.2.inflight[n]? with
      | none => s
      | some pr =>
        let (st, s) := s.answerProd o a pr
        (s.modSaved o.core o.ctx fun z => if z.inflight.any mine then z.setProd n st else z).unhold (List.range 48)
/-- The word of an agent's decrement that the other side has performed (R29, R183). -/
def State.decLanded (s : State) (o : HostOp) (a : Answer) : State :=
  match a with
  | .data bs => if o.dec && !o.own then s.landAtomic o 8 ((leNat (bs.take 8) + (2 ^ 64 - 1)) % 2 ^ 64) else s
  | _ => s
/-- A holder's request stands as given. -/
def State.setAns (s : State) (o : HostOp) (x : OpAns) : State :=
  let f (y : HostOp) : HostOp := if y.id = o.id then { y with ans := x } else y
  { s with hostOps := s.hostOps.map f, remoteOps := s.remoteOps.map f }
/-- A line that a read over CXL.cache has brought is held in S by its proxy home (R150, R157). -/
def State.lineHeld (s : State) (o : HostOp) : State :=
  if isHostKey o.key && !o.atomic && s.cxl o.part && s.proxyGet o.part (hostLineOf o.key) == .i then
    ((s.l2Fill (s.hostHome o.part o.key) (hostUnit o.key) 64 false).proxySet o.part (hostLineOf o.key) .s)
  else s
/-- The answer to a read or atomic: a producer goes on, or a holder's request stands answered. A watched line whose request has
failed is requested again (R157). -/
def State.answerOp (s : State) (o : HostOp) (a : Answer) : State :=
  let s := if a.good then s.lineHeld o else s
  match o.holder with
  | none => s.linkAnswer o a
  | some .line => if a.good = false && s.watchedLine (s.hostHome o.part o.key) (o.key / 64) then s.holdLine o.part (o.key / 64) else s
  | some _ => if a.good then (s.decLanded o a).setAns o .data else s.setAns o (match a with | .error _ _ => .refused | _ => .lost)
/-- An operation that its answer takes away: all but a holder's request, which the holder forgets when it has used it. -/
def HostOp.leaves (o : HostOp) : Bool := o.write || match o.holder with | none => true | some .line => true | _ => false
/-- The proxy home can answer a request itself: it holds the line, or owns it where ownership was asked for (R150, R188). -/
def State.answersHere (s : State) (o : HostOp) : Bool :=
  if o.own then s.hostOwned o.part o.key else !o.atomic && s.proxyGet o.part (hostLineOf o.key) != .i
/-- It does. -/
def State.homeAnswers (s : State) (o : HostOp) : State :=
  let a : Answer := if o.own then .owned else if s.mem.poisoned o.base 64 then .poison else .data (s.mem.bytes o.base 64)
  (if o.leaves then s else { s with hostOps := s.hostOps ++ [o] }).answerOp o a

/-- An unsent host operation goes out (R350), behind the writes to its line: a write is performed or asks for its line, a read or
atomic waits for its answer, or is answered by a proxy home that holds its line by then (R188); a request for ownership over a
link without CXL.cache ends (R173). -/
def State.sendHost (s : State) (o : HostOp) : State :=
  let keep (o : HostOp) : State := { s with hostOps := s.hostOps ++ [o] }
  match s.portOf o.part with
  | none => keep o
  | some port =>
    if o.sent || o.ans != .pending then keep o
    else if o.write then s.hostPut o
    else if s.writeAhead o.part o.key then keep o
    else if s.answersHere o then s.homeAnswers o
    else
      let o := s.route { o with sent := true, since := s.ts, port := port }
      if o.ans = .noCache ∧ o.holder = none then s.linkAnswer o (.error 0x35 0) else keep o
/-- Everything that waits for a host link is tried, in order. -/
def State.flushHost (s : State) : State := s.hostOps.foldl State.sendHost { s with hostOps := [] }

/-- Partitions whose link runs no CXL.cache hold no host line (R351); where it runs, lines with armed watches are held (R157). -/
def State.hostLinesAnew (s : State) : State :=
  let lost (core : Nat) : Bool := match s.partOf (core / 32) with | some p => !s.cxl p | none => true
  let leave (c : Nat × Core) : Nat × Core :=
    if lost c.1 then (c.1, { c.2 with l1 := c.2.l1.filter fun x => !isHostKey x.1 }) else c
  let s := { s with proxy := s.proxy.filter fun x => s.cxl (x.1 % 48), cores := s.cores.map leave }
  s.cores.foldl (fun s c => match s.partOf (c.1 / 32) with
    | some p => c.2.watches.foldl (fun s d => s.holdLine p d.line) s
    | none => s) s
/-- LINK_STATE_CHANGE (R350, R351): a link trains as plain PCIe, as CXL with 68-byte flits, or as CXL with 256-byte flits, where the
host may cache device memory. -/
def execLinkStateChange (port : Nat) (up : Bool) (cxl : CxlMode) (s : State) : Out :=
  let s := { s with
    portUp := s.portUp.set port up, portCxl := s.portCxl.set port (up && cxl != CxlMode.pcie)
    portHdm := s.portHdm.set port (up && cxl == CxlMode.flit256) }
  .next s.hostLinesAnew.flushHost

/-- The n-th host operation of a partition. -/
def State.hostOp (s : State) (p n : Nat) : Option HostOp := (s.hostOps.filter fun o => o.part == p)[n]?
def State.dropHostOp (s : State) (o : HostOp) : State := { s with hostOps := s.hostOps.filter fun x => x.id ≠ o.id }
def State.dropRemoteOp (s : State) (o : HostOp) : State := { s with remoteOps := s.remoteOps.filter fun x => x.id ≠ o.id }
/-- A violation entry for a host line, at its proxy home. -/
def State.hostLog (s : State) (p key port : Nat) : State :=
  s.vlogAppend ((s.part p).proxyHome (key - 2 ^ 64)) (key - 2 ^ 64) 1 2 port

/-- Ranges of keys whose bytes are newer here than an answer to an operation (R188): those that noted it, and those of the writes
that still wait for the line. -/
def State.newerThan (s : State) (o : HostOp) : List (Nat × Nat × Bool) :=
  o.newer ++ (s.hostOps.filter fun x => x.own && x.write && x.onLine o.key).flatMap fun x => x.newer
/-- An answer's bytes in this package's view of a link's memory (log 6), but for those that are newer here: none where the proxy
home holds the line by now, or where the other side has performed an atomic. The line's mark stays only where a newer write set it
(R353). -/
def State.land (s : State) (o : HostOp) (bs : List Byte) : State :=
  let rs := s.newerThan o
  let b := o.base
  let bs := bs.take (64 - b % 64)
  if (o.atomic && !o.own) || (isHostKey o.key && !o.own && s.proxyGet o.part (hostLineOf o.key) != .i) then s
  else if rs.isEmpty then s.modMem fun m => m.store b bs false
  else s.modMem fun m => (m.setExcept (rs.map fun r => (r.1, r.2.1)) b bs).setPoison (b / 64) (rs.any fun r => r.2.2)

/-- The proxy home has the line of an ownership request in M (R150, R173); poisoned data keeps its mark, unless a whole line was
written over it (R353). -/
def State.ownLine (s : State) (o : HostOp) (poison : Bool) : State :=
  let s := (s.l2Fill (s.hostHome o.part o.key) (hostUnit o.key) 64 true).proxySet o.part (hostLineOf o.key) .m
  let s := s.setTag (s.hostHome o.part o.key) (dirKey o.key) (s.rixOf o.part o.vf)
  let s := if o.write && o.holder.isNone then s.hostOwn o.part o.core o.key else s
  let whole := (s.newerThan o).any fun r => decide (r.1 ≤ hostUnit o.key) && decide (hostUnit o.key + 64 ≤ r.2.1) && !r.2.2
  if poison && !whole then s.modMem fun m => m.setPoison (o.key / 64) true else s
/-- The other requests for ownership of a line are answered with it: one request serves them all (R151). -/
def State.ownJoined (s : State) (o : HostOp) : State :=
  let l := s.hostOps.filter fun x => x.id ≠ o.id && x.own && x.sent && x.ans == .pending && x.part == o.part && x.key / 64 == o.key / 64
  l.foldl (fun s x =>
    let s := if x.leaves then s.dropHostOp x else s
    if x.write then (if x.holder.isNone then s.hostOwn x.part x.core x.key else s) else s.answerOp x .owned) s

/-- A host operation ends: with its data, poisoned or timed out, or refused (R173, R350, R353). A write whose line is not to be
had is dropped and logged. -/
def State.hostEnds (s : State) (o : HostOp) (a : Answer) : State :=
  let s := if o.leaves then s.dropHostOp o else s
  let s :=
    if o.own && a.good then
      let s := s.ownLine o false
      (if o.write then s else s.answerOp o .owned).ownJoined o
    else if o.write then s.hostLog o.part o.key o.port
    else s.answerOp o a
  if o.write || o.own then s.flushHost.linkMoved o.part else if o.holder.isSome then s.linkMoved o.part else s

/-- HOST_REQUEST_TIMEOUT (R350, R348): a request unsent or unanswered for 10 ms. -/
def execHostRequestTimeout (p n : Nat) (s : State) : Out :=
  match s.hostOp p n with
  | none => .next s
  | some o => if s.ts < o.since + 10000000 ∨ o.ans ≠ .pending then .next s else .next (s.hostEnds o .poison)

/-- A refused CXL.cache write-back (R353): the line's data is lost, dropped and logged. -/
def State.writeBackRefused (s : State) (p line : Nat) : State :=
  if s.proxyGet p line = .m then
    let key := 2 ^ 64 + 64 * line
    ((s.proxyLeave p key).scramble key (key + 64)).hostLog p key ((s.portOf p).getD (p % 2))
  else s

/-- HOST_LINK_COMPLETION (R353, R173): the answer to the n-th host operation of a partition; for a refused write-back, n is
the host line. -/
def execHostLinkCompletion (p n : Nat) (r : LinkResult) (s : State) : Out :=
  match r with
  | .wbRefused => .next (s.writeBackRefused p n)
  | _ =>
    match s.hostOp p n with
    | none => .next s
    | some o =>
      if o.sent = false ∨ o.ans ≠ .pending ∨ (o.write = true ∧ o.own = false) then .next s
      else
        let refused (code : Nat) : Answer := if o.atomic && !o.own then .error 0x34 code else .poison
        match r with
        | .data bs => .next ((s.land o bs).hostEnds o (.data bs))
        | .poison => .next (
            if o.holder = some .line then (s.modMem fun m => m.setPoison (o.key / 64) true).hostEnds o (.data [])
            else if o.write then (((s.dropHostOp o).ownLine o true).ownJoined o).flushHost.linkMoved p else s.hostEnds o .poison)
        | .ur => .next (s.hostEnds o (refused 1))
        | .ca => .next (s.hostEnds o (refused 4))
        | _ => .next s

/-- An unsent remote operation goes out once a port of its window can take it (R358, R360), behind the writes to its line. -/
def State.sendRemote (s : State) (o : HostOp) : State :=
  let keep (o : HostOp) : State := { s with remoteOps := s.remoteOps ++ [o] }
  if o.sent || o.ans != .pending || (!o.write && s.writeAhead o.part o.key) then keep o
  else match s.exitPort o.part (.remote o.win o.dpa) o.write with
    | none => keep o
    | some port =>
      let s := keep { o with sent := true, port := port }
      if o.write then s.linkWrite o.key o.data o.poison else s
def State.flushRemote (s : State) : State := s.remoteOps.foldl State.sendRemote { s with remoteOps := [] }
/-- A remote operation ends: a write is acknowledged or given up; a read, AMO or CAS has its answer (R358, R359). -/
def State.remoteEnds (s : State) (o : HostOp) (a : Answer) : State :=
  let s := if o.leaves then s.dropRemoteOp o else s
  if o.write then s.flushRemote.linkMoved o.part
  else if o.holder.isSome then (s.answerOp o a).linkMoved o.part else s.answerOp o a

/-- REMOTE_RESPONSE (R358): the answer to the n-th remote operation. An error answer to a write is the receiver's to log. -/
def execRemoteResponse (n : Nat) (r : LinkResult) (s : State) : Out :=
  match s.remoteOps[n]? with
  | none => .next s
  | some o =>
    if o.sent = false ∨ o.ans ≠ .pending then .next s
    else if o.write then match r with
      | .ack => .next (s.remoteEnds o .owned)
      | .ur => .next (s.remoteEnds o .owned)
      | .ca => .next (s.remoteEnds o .owned)
      | _ => .next s
    else match r with
      | .data bs => .next ((s.land o bs).remoteEnds o (.data bs))
      | .poison => .next (s.remoteEnds o .poison)
      | .ur => .next (s.remoteEnds o (.error 0x16 0))
      | .ca => .next (s.remoteEnds o (.error 0x16 0))
      | _ => .next s

/-- REMOTE_TIMEOUT (R359): 100,000 ticks without an answer: a read is poisoned, a write logged. -/
def execRemoteTimeout (n : Nat) (s : State) : Out :=
  match s.remoteOps[n]? with
  | none => .next s
  | some o =>
    if s.ts < o.since + 100000 ∨ o.ans ≠ .pending then .next s
    else
      let s := if o.write then s.vlogAppend (o.core / 32) o.dpa 1 3 o.port else s
      .next (s.remoteEnds o .poison)

/-- REED_LINK_STATE_CHANGE (R358). -/
def execReedLinkStateChange (port : Nat) (up : Bool) (s : State) : Out :=
  .next ({ s with reedDown := fset false s.reedDown port (!up) }).flushRemote
/-- LANE_STOP and LANE_GO (R360). -/
def execLaneStop (port lane : Nat) (s : State) : Out :=
  .next { s with laneStopped := fset false s.laneStopped (4 * port + lane) true }
def execLaneGo (port lane : Nat) (s : State) : Out :=
  .next ({ s with laneStopped := fset false s.laneStopped (4 * port + lane) false }).flushRemote
/-- FLIT_REPLAY (R356): the link replays a flit that failed its CRC; no flit is lost or changed. -/
def execFlitReplay (_port : Nat) (s : State) : Out := .next s

/-- An inbound window admits an access of partition `part` of package `pkg` (R358). -/
def State.inbound (s : State) (p pkg part dpa : Nat) (write : Bool) : Bool :=
  (List.range 16).any fun w =>
    let e := s.pfGet (rwOff p w)
    let x := s.pfGet (rwOff p w + 8)
    e.getLsbD 0 && e.getLsbD 2 && bitsOf e 32 16 == pkg && bitsOf e 8 6 == part && (!write || e.getLsbD 1) &&
      decide (bitsOf x 0 24 ≤ dpa / 65536) && decide (dpa / 65536 < bitsOf x 0 24 + bitsOf x 24 24) && (s.part p).dpaIn dpa 1

/-- Bytes of a Reedway access, and whether it writes. -/
def remoteLen : RemoteReq → Nat
  | .read n => n
  | .write bs _ => bs.length
  | .amo _ dbl _ => if dbl then 8 else 4
  | .cas dbl _ _ => if dbl then 8 else 4
def remoteWrites : RemoteReq → Bool
  | .read _ => false
  | _ => true

/-- REMOTE_INBOUND_ACCESS (R358): admitted by an inbound window and performed at the home, or refused and logged. -/
def execRemoteInboundAccess (port pkg part p dpa : Nat) (r : RemoteReq) (s : State) : Out :=
  let n := remoteLen r
  let k := (s.part p).dpaKey dpa
  let refuse (s : State) : State := s.vlogAppend ((s.part p).bulkOf (min (dpa / 2 ^ 34) ((s.part p).n - 1))) dpa 1 3 port
  if s.partRunning p = false then .next s
  else if s.inbound p pkg part dpa (remoteWrites r) = false ∨ n = 0 ∨ 512 < dpa % 512 + n then .next (refuse s)
  else s.outsideGate k n (remoteWrites r) true (.remote port pkg part p dpa r) fun s =>
  if remoteWrites r && s.replaying p then .next (refuse s)
  else
    let s := match r with
      | .write bs _ => s.capture p 1 dpa port bs
      | _ => s
    if remoteWrites r && s.sealed k then .next (refuse s) else
    let old := s.mem.num k n
    match r with
    | .read _ => .next (s.hostRead k n)
    | .write bs poison => .next (s.outsideWrite k bs poison)
    | .amo op _ y =>
      if s.mem.poisoned k n ∨ dpa % n ≠ 0 then .next s
      else .next (s.outsideWrite k (leBytes n (amoNew op n old (y.toNat % 2 ^ (8 * n)))) false)
    | .cas _ e y =>
      if s.mem.poisoned k n ∨ dpa % n ≠ 0 then .next s
      else .next (s.outsideWrite k (leBytes n (if old = e.toNat % 2 ^ (8 * n) then y.toNat % 2 ^ (8 * n) else old)) false)

/-- A recorded write is made again (R363). -/
def State.injectWrite (s : State) (p dpa port : Nat) (bs : List Byte) : State :=
  let k := (s.part p).dpaKey dpa
  if (s.part p).dpaIn dpa bs.length = false ∨ bs.isEmpty = true then s
  else if s.sealedRange k bs.length then s.vlogAppend (keyBulk k) dpa 1 2 port
  else s.outsideWrite k bs false
/-- A recorded launch record is taken by the slot whose next record lies at its address (R363, log 29). -/
def State.injectLaunch (s : State) (p : Nat) (addr : Word) (bs : List Byte) : State :=
  let next (i : Nat) : Option Nat := (s.slot p i).queue.bind fun q =>
    let d := s.queueDesc p q
    if d.ring + BitVec.ofNat 64 (64 * (d.head % 2 ^ d.k)) = addr then some q else none
  match (List.range 64).findSome? fun i => (next i).map fun q => (i, q) with
  | some (i, q) => s.takeRecord p i q (s.queueDesc p q) addr bs
  | none => s

/-- REPLAY_INJECT (R363): the record at RHEAD, once the partition's TS has reached its own. -/
def execReplayInject (p : Nat) (s : State) : Out :=
  let head := (s.pfGet (rOff p 0xa18)).toNat
  let at_ := s.rPos p
  if s.replaying p = false ∨ (s.pfGet (rOff p 0xa10)).toNat < head + 64 ∨ (s.part p).dpaIn at_ 64 = false then .next s
  else
    let k := (s.part p).dpaKey at_
    let w := s.mem.num k 8
    let kind := w % 256
    let len := w / 2 ^ 32
    if kind = 0 ∨ 3 < kind ∨ s.tsOf p < s.mem.num (k + 8) 8 then .next s
    else
      let addr := s.mem.num (k + 16) 8
      let port := s.mem.num (k + 24) 8 % 256
      let bs := s.mem.bytes (k + 32) len
      let s := s.pfSet (rOff p 0xa18) (BitVec.ofNat 64 (head + recSize len))
      if kind = 1 then .next (s.injectWrite p addr port bs)
      else if kind = 2 then .next (s.injectLaunch p (BitVec.ofNat 64 addr) bs)
      else .next (s.notifyQueue p ((addr - 0x10000) / 8 % 1024) (BitVec.ofNat 64 (leNat bs)))

end Sys2Proof.Machine
end

