-- ==== Sys2Proof/Machine/Manage.lean ====
section
/-! DEFINITION. The management controller: boot and measurement (R401, R402), quotes (R403), power (R404-R406), cooling
(R407) and its registers (R408). -/

namespace Sys2Proof.Machine

/-- The step of R401 that refuses an image; 0 none. -/
def bootRefused (img : BootImage) : Nat :=
  if Config.shake256 64 img.key ≠ Config.fusedKeyDigest then 1
  else if Config.slhVerify img.key img.body img.sig = false then 2
  else if img.version < Config.fusedMinVersion then 3
  else 0

/-- What a module reset leaves: everything on the device at its reset value, its memories undefined; host memory and what
remote packages hold are outside it (log 6). -/
def State.afterReset (s : State) : State :=
  ({ State.reset with mem := s.mem, free := s.free, cur := s.cur, agenda := s.agenda }).forget 0 (2 ^ 64)

/-- MODULE_RESET (R401, R402): the ROM refuses the image, or measures it and starts the firmware. -/
def execModuleReset (img : BootImage) (s : State) : Out :=
  let s := s.afterReset
  match bootRefused img with
  | 0 =>
    let s := (s.pfSet 0x10000 1#64).pfSet 0x10008 (BitVec.ofNat 64 (img.version % 2 ^ 32))
    let s := (s.extend 0 (Config.shake256 64 img.body)).extend 1 (Config.shake256 64 img.conf)
    .next { s with booting := true }
  | n => .next (s.pfSet 0x10000 (BitVec.ofNat 64 (3 + n * 2 ^ 8)))

/-- FIRMWARE_RUNNING (R401). -/
def execFirmwareRunning (s : State) : Out :=
  .next (if s.booting then { s.pfSet 0x10000 2#64 with booting := false } else s)

/-- How the PF answers a configuration request (R401). -/
inductive CfgAnswer | retry | normal deriving DecidableEq, Repr
/-- With Configuration Request Retry Status until the firmware runs or the image is refused (R401). -/
def State.cfgAnswer (s : State) : CfgAnswer :=
  if bitsOf (s.pfGet 0x10000) 0 4 = 2 ∨ bitsOf (s.pfGet 0x10000) 0 4 = 3 then .normal else .retry
/-- What a PF read of the aligned word at an offset of BAR0 gives (R7, R401, R408): while the image is refused, zero but for BOOTST and
REASON. -/
def State.bar0Read (s : State) (off : Nat) : Word :=
  if bitsOf (s.pfGet 0x10000) 0 4 = 3 ∧ off ≠ 0x10000 then 0#64 else s.pfGet off

/-- The quote's first 288 bytes (R403): the TS and the measurements are those of the request. -/
def State.quoteHead (s : State) : List Byte :=
  leBytes 8 (bitsOf (s.pfGet 0x20000) 0 16) ++ leBytes 8 (bitsOf (s.pfGet 0x10008) 0 32) ++ leBytes 8 (s.quoteAt % 2 ^ 64) ++
  List.replicate 40 0#8 ++ s.quoteMeas ++
  (List.range 4).flatMap fun j => leBytes 8 (s.pfGet (0x10200 + 8 * j)).toNat
/-- n bytes of a list, zero beyond its end. -/
def padTo (n : Nat) (l : List Byte) : List Byte := l.take n ++ List.replicate (n - l.length) 0#8

/-- QUOTE_REQUEST (R403): with GO set, the quote is written to host memory, then DONE; it waits for a host link. -/
def execQuoteRequest (s : State) : Out :=
  if s.inService = false ∨ (s.pfGet 0x10228).getLsbD 0 = false ∨ (s.portUp.any id) = false then .next s
  else
    let h := s.quoteHead
    let a := (s.pfGet 0x10220).toNat
    .next ((s.writeMem (hostKey a) (h ++ padTo 29792 (Config.slhSign h)) false).pfSet 0x10228 2#64)

/-- PWRCAP_WRITE (R408): out of range it leaves the field. -/
def execPwrcapWrite (x : Word) (s : State) : Out :=
  let n := bitsOf x 0 12
  .next (if s.inService ∧ 1000 ≤ n ∧ n ≤ 2800 then s.pfSet 0x10010 (BitVec.ofNat 64 n) else s)

/-- THROT (R408): throttled for power or for heat. -/
def State.setThrot (s : State) : State :=
  s.pfSet 0x10020 (setBits (s.pfGet 0x10020) 0 1 (s.powerThrottle || s.thermalThrottle).toNat)
/-- POWER_SAMPLE (R408): once every ms. -/
def execPowerSample (now peak tdie tin : Nat) (s : State) : Out :=
  let w := s.pfGet 0x10020
  let ms := bitsOf w 32 32 + (if w.getLsbD 0 then 1 else 0)
  .next (((s.pfSet 0x10018 (BitVec.ofNat 64 (now % 4096 + peak % 4096 * 2 ^ 16))).pfSet 0x10028
    (BitVec.ofNat 64 (tdie % 256 + tin % 256 * 2 ^ 8))).pfSet 0x10020 (setBits w 32 32 ms))
/-- POWER_THROTTLE (R405): on while the average draw exceeds PWRCAP. Only rates change. -/
def execPowerThrottle (on : Bool) (s : State) : Out :=
  let above := decide (bitsOf (s.pfGet 0x10010) 0 12 < bitsOf (s.pfGet 0x10018) 0 12)
  .next (if on = above then ({ s with powerThrottle := on }).setThrot else s)
/-- THERMAL_THROTTLE (R407): on while a die is at 105 degrees or more. -/
def execThermalThrottle (on : Bool) (s : State) : Out :=
  let hot := decide (105 ≤ bitsOf (s.pfGet 0x10028) 0 8)
  .next (if on = hot then ({ s with thermalThrottle := on }).setThrot else s)

/-- The cores of a cluster. -/
def clusterCores (u : Nat) : List Nat := (List.range 4).map fun i => coreKey (u / 8) (u % 8) i
/-- Contexts 1-15 of a cluster's cores that are bound. -/
def State.clusterBound (s : State) (u : Nat) : Bool := (clusterCores u).any fun k => (List.range 15).any fun i => (s.ctx k (i + 1)).bound
/-- Work for a cluster (R406): a ready record, a command, a gate. -/
def State.clusterWork (s : State) (u : Nat) : Bool :=
  let x := s.unit u
  (x.fifo.any fun l => !l.2.isEmpty) || !x.mq.isEmpty || !x.resumed.isEmpty || x.run.isSome || !x.outq.isEmpty || !x.sq.isEmpty ||
  !x.flying.isEmpty || !x.gates.isEmpty || (clusterCores u).any fun k => (s.slotRec k 0).state == .ready
/-- CLUSTER_POWER_GATE (R153, R406): idle for 1 ms, its L1s are emptied and it stops. -/
def execClusterPowerGate (cl : Nat) (s : State) : Out :=
  let x := s.unit cl
  if (s.partOf (cl / 8)).isNone ∨ s.clusterBound cl = true ∨ s.clusterWork cl = true ∨ s.ts < x.idleAt + 1000000 then .next s
  else
    let s := (clusterCores cl).foldl (fun s k =>
      let us := (s.core k).l1.map fun y => y.1
      (us.foldl (fun s u => s.l1Leave k u) s).modCore k fun c => { c with l1i := [] }) s
    .next (s.modUnit cl fun y => { y with gated := true })
/-- CLUSTER_UNGATE (R406): work has come for it, or the bound contexts of a VF that has been restored (R290). -/
def execClusterUngate (cl : Nat) (s : State) : Out :=
  .next (if s.clusterWork cl || s.clusterBound cl then s.modUnit cl fun y => { y with gated := false } else s)

end Sys2Proof.Machine
end

