-- ==== Sys2Proof/Machine/ThreadState.lean ====
section
/-! DEFINITION. The thread-state instructions (R305-R314): TSTOP, TSTART, TREAD, TWRITE, TREAP, TSTAT. -/

namespace Sys2Proof.Machine

/-- The code of a state (R14). -/
def TState.code : TState → Nat
  | .free => 0 | .ready => 1 | .bound => 2 | .sleeping => 3 | .stopped => 4 | .spilled => 5 | .retired => 6
/-- The flags byte of a record (R12). -/
def Rec.flags (r : Rec) : Nat :=
  r.autoreap.toNat + 2 * r.launch.toNat + 4 * r.deep.toNat + 8 * r.sendwait.toNat + 16 * r.faulted.toNat +
  32 * r.spillKind.toNat + 128 * r.save.toNat
/-- The 64 bytes of a continuation record with its armed count (R11). -/
def Rec.bytes (r : Rec) (armed : Nat) : List Byte :=
  leBytes 8 (bitsOf r.pc 0 57 + r.prio.toNat * 2 ^ 57 + r.roam.toNat * 2 ^ 59 + r.state.code * 2 ^ 60) ++
  leBytes 4 r.tid.toNat ++ leBytes 2 r.table.toNat ++ leBytes 1 r.flags ++ leBytes 1 (armed + 16 * r.pending.toNat) ++
  leBytes 8 r.faultLine.toNat ++ leBytes 8 r.inbox.toNat ++ leBytes 8 r.g1.toNat ++ leBytes 8 r.g2.toNat ++
  leBytes 8 r.g3.toNat ++ leBytes 8 r.g4.toNat

/-- A target operand (R306): the id it names, or the home slot that [31] names; none when a reserved bit is set. -/
def targetBad (x : Word) : Bool :=
  bitsOf x 32 32 != 0 || bitsOf x 27 4 != 0 || (x.getLsbD 31 && bitsOf x 0 8 != 0)
/-- The id of the live record a target operand names; a slot that is free gives an id that no record has. -/
def State.targetId (s : State) (x : Word) : W32 :=
  let t : W32 := x.setWidth 32
  if x.getLsbD 31 then (s.slotRec (tidCore t) (tidSlot t)).tid else t
/-- The live record a target operand names (R306). -/
def State.target (s : State) (x : Word) : Option Rec :=
  let t : W32 := x.setWidth 32
  if x.getLsbD 31 then
    let r := s.slotRec (tidCore t) (tidSlot t)
    if r.state = .free then none else some r
  else s.findRec t

/-- The current instruction has begun and executes again: its checks of rights are past (R315). -/
def State.begin_ (s : State) : State := s.modCur fun c => { c with begun := true }

/-- A thread-state instruction on a target (R306): the first status that applies, else f; `fin` writes the status. It needs all
of `rights`; once it has begun they are not checked again (R315). -/
def State.targetOp (s : State) (a : GReg) (rights : List Nat) (f4 : Nat) (noSelf : Bool) (fin : State → Word → State)
    (f : Rec → State → State) : State :=
  let x := s.g a
  let t : W32 := x.setWidth 32
  if targetBad x then fin s 8#64
  else if (s.part s.me.part).bulks.contains (tidBulk t) = false then fin s 3#64
  else match if s.cc.begun then none else rights.find? fun right => !s.holds right t with
    | some right => s.noAuthority x right f4
    | none =>
      match s.target x with
      | none => fin s 2#64
      | some r => if noSelf && r.tid == s.tid then fin s 6#64 else f r s

/-- The agent that reads or writes a stop block for a thread that holds no context (R309, R409). -/
def Rec.agent (r : Rec) (b : Nat) (h : Holder) : Agent := recordAgent r.part r.vf b r.tid h

/-- The image of a saved context (R289), and the saved VFs without it and the posts for it. -/
def State.savedCtx (s : State) (p : Nat) (t : W32) : Option (Nat × Nat × Ctx) :=
  ((s.part p).savedVfs.flatMap fun v => v.ctxs).find? fun x => x.2.2.tid == t
def State.dropSaved (s : State) (p : Nat) (t : W32) : State :=
  s.modPart p fun y => { y with savedVfs := y.savedVfs.map fun v =>
    let mine (k c : Nat) : Bool := v.ctxs.any fun x => x.1 == k && x.2.1 == c && x.2.2.tid == t
    { v with ctxs := v.ctxs.filter fun x => x.2.2.tid != t, posts := v.posts.filter fun q => !mine q.2.1 q.2.2.1 } }

/-- A thread that holds no context is stopped (R308): a blocked SEND or SENDN executes again. -/
def State.stopRec (s : State) (r : Rec) : State :=
  match if r.sendwait then s.blockedSend r.tid else none with
  | some e => (s.dropBlocked r.tid).stopIdle r.tid |>.modRec r.tid fun y => { y with pc := e.msg.pc }
  | none => s.stopIdle r.tid

/-- The stop of a thread that holds no context, with its stop block if SAVE, and with a record if a fault stops it first (R17,
R308). -/
def State.tstopIdle (s : State) (d : GReg) (r : Rec) (x : Regs) (rc : Option FaultRec) (f : State → State) : State :=
  s.stopRecord (r.agent (tidBulk r.tid) (.record 0 0)) (tidBulk r.tid) r x rc (fun s => s.hold false r.faultLine)
    fun s => (f s).ret d (if rc.isSome then 1#64 else 0#64)

/-- What a stop of a saved context stops on (R292, R308, R318): its oldest fault, or its boundary; the PC is that of the oldest
access that PAGE_WAIT holds (R65), of a suspension point without effect yet (R19), or of a ONCE pair not done. -/
def Ctx.imageStop (x : Ctx) : Stop :=
  let pc := match x.susp with
    | some u => x.suspPc u
    | none => x.stopPc
  let n := x.retired + 1
  let st : Stop := { code := none, pc := pc, resume := pc, addr := 0#64, detail := 0#64, late := false, seq := n, rseq := n,
                     callers := [] }
  let fault (p : Producer) : Option Stop := match p.st with
    | .fault code a d => some { st with code := some code, pc := p.pc, resume := p.pc, addr := a, detail := d,
                                        late := decide (p.seq < x.retired), seq := p.seq, rseq := p.seq }
    | _ => none
  let st := (x.inflight.findSome? fault).getD st
  ({ x with stop := some st }.abandon).stop.getD st
/-- A producer that a stop waits for: its value or its fault is still to come (R65). -/
def Producer.awaited (p : Producer) : Bool := match p.st with | .fault _ _ _ => false | _ => p.live
/-- The stop of a thread whose context is saved (R292, R308, R65). -/
def State.tstopImage (s : State) (d : GReg) (r : Rec) (k : Nat) (x : Ctx) : State :=
  if x.inflight.any Producer.awaited then s.hold false r.faultLine
  else
    let st := x.imageStop
    let rc := st.code.map fun code =>
      { code := code, engine := false, notice := false, saved := false, late := st.late, tid := r.tid, pc := st.pc,
        addr := st.addr, detail := st.detail, vf := r.vf, core := s.coreField r.part k }
    s.tstopIdle d r x.regs rc fun s =>
      let s := if rc.isSome then s.summary r.part r.vf r.tid else s
      let s := match x.susp with
        | some (.send _) => s.dropBlocked r.tid
        | _ => s
      (s.dropSaved r.part r.tid).modRec r.tid fun y => { y.stopped st.resume x.regs rc.isSome with saved := false }

/-- A bound thread stops at an instruction boundary (R308): the TSTOP waits. A SEND that waits for its answer, or a grain
change under way, ends first (R16, R287); a suspension point that waits for its producers executes again (R15, R19). -/
def State.tstopBound (s : State) (d : GReg) (k c : Nat) : State :=
  let x := s.ctx k c
  let me := (s.cur.1, s.cur.2, d.toNat)
  if x.wait == .answer || x.wait == .grain then s.begin_.waitFor (.target k c)
  else match x.stop with
    | some st => (s.waitFor .answer).modCtx k c fun y => { y with stop := some { st with callers := st.callers ++ [me] } }
    | none =>
      let pc := match x.susp with
        | some u => x.suspPc u
        | none => x.stopPc
      let n := x.retired + 1
      (s.waitFor .answer).beginStop k c
        { code := none, pc := pc, resume := pc, addr := 0#64, detail := 0#64, late := false, seq := n, rseq := n,
          callers := [me] }

/-- TSTOP (R308). -/
def execTstop (d a : GReg) (s : State) : Out :=
  .next (s.targetOp a [rSTOP] 0 true (fun s x => s.ret d x) fun r s =>
    match r.state with
    | .bound =>
      if r.saved then
        match s.savedCtx r.part r.tid with
        | some (k, _, x) => s.tstopImage d r k x
        | none => s.ret d 1#64
      else match r.place with
        | some (k, c) => s.tstopBound d k c
        | none => s.ret d 1#64
    | .ready => s.tstopIdle d r r.resumeRegs none fun s => s.stopRec r
    | .sleeping => s.tstopIdle d r r.resumeRegs none fun s => s.stopRec r
    | .spilled => s.tstopIdle d r r.resumeRegs none fun s => s.stopRec r
    | _ => s.ret d 1#64)

/-- The full/empty word of a valid stop block (R309). -/
def stopFeWord : Nat := 2 ^ 54 - 1

/-- TSTART (R309): a page that is not present is a failed check, and its request goes on without it. -/
def execTstart (d a : GReg) (s : State) : Out :=
  .next (s.targetOp a [rSTART] 1 true (fun s x => s.ret d x) fun r s =>
    if r.state = .stopped ∨ (r.state = .spilled ∧ r.spillKind = 2#2) then
      if r.save then
        let h : Holder := .tstart s.cur.1 s.cur.2
        match s.access (r.agent (coreBulk s.cur.1) h) { Acc.vload 64 with n := 4096 } r.faultLine with
        | (.ok pl, s) =>
          match s.linkRead r.part r.vf h pl 4096 with
          | (.held, s) => s.hold false r.faultLine
          | (l, s) =>
            let s := s.linkDone r.vf h
            match s.placeKey r.part pl with
            | some k =>
              if l != .data || s.placePoison pl 4096 then s.ret d 9#64
              else if s.mem.num (k + 0x198) 8 ≠ stopFeWord then s.ret d 8#64
              else (s.restart r.tid (some (Regs.ofBlock s.mem k r))).ret d 0#64
            | none => s.ret d 9#64
        | (.ats, s) => s.hold false r.faultLine
        | (.bi, s) => s.hold false r.faultLine
        | (_, s) => s.ret d 9#64
      else (s.restart r.tid none).ret d 0#64
    else s.ret d 1#64)

/-- The status of TREAD arrives as a long-latency result (R307, R63). -/
def State.tread (s : State) (d : GReg) (x : Word) : State := s.launchProd (.g d.toNat) .done_ (.valueG x) 4
/-- A copy to the block at g(b), checked whole before anything is read (R310). -/
def State.treadCopy (s : State) (d b : GReg) (bs : List Byte) : State :=
  let n := bs.length / 64
  let va := s.g b
  match s.places s.ag (Acc.vstore 64) ((List.range n).map fun i => va + BitVec.ofNat 64 (64 * i)) 0 with
  | (ps, none, s) =>
    ((List.range n).foldl (fun s i => s.storeCur (ps.getD i (.grain 0)) ((bs.drop (64 * i)).take 64)) s).tread d 0#64
  | (_, some (_, va, .fault c e), s) => s.fault c va e
  | (_, some (_, va, .page), s) => s.hold true va
  | (_, some (_, va, _), s) => s.hold false va

/-- TREAD (R310). Its statuses come before the checks of the address it copies to (log 58). -/
def execTread (d a b : GReg) (s : State) : Out :=
  .next (s.targetOp a [rREAD] 2 false (fun s x => s.tread d x) fun r s => s.treadCopy d b (r.bytes (s.armed r.tid)))
/-- TREAD.tab (R310, R303). -/
def execTreadTab (d a b : GReg) (s : State) : Out :=
  let n := (s.g a).toNat
  if 1024 ≤ n then .next (s.tread d 8#64)
  else if n ≠ s.me.table.toNat ∧ s.cc.begun = false ∧ s.holdsAll rGRANT = false then .next (s.noAuthority (s.g a) rGRANT 2)
  else .next (s.treadCopy d b ((s.authTable s.me.part n).flatMap fun x => leBytes 16 x.toNat))
/-- The violation log of a bulkhead as TREAD.log copies it (R322). -/
def Bulk.logBytes (b : Bulk) : List Byte :=
  leBytes 4 b.vcount.toNat ++ leBytes 60 0 ++ (List.range 64).flatMap fun i => leBytes 16 (fget 0#128 b.vlog i).toNat
/-- TREAD.log (R310). -/
def execTreadLog (d a b : GReg) (s : State) : Out :=
  let n := (s.g a).toNat
  if 64 ≤ n then .next (s.tread d 8#64)
  else if (s.part s.me.part).bulks.contains n = false then .next (s.tread d 3#64)
  else if s.cc.begun = false ∧ (s.myTable.any fun x => grants x rREAD && coversBulk x n) = false then .next (s.noAuthority (s.g a) rREAD 2)
  else .next (s.treadCopy d b (s.bulk n).logBytes)

/-- The record with the fields of an image that a mask selects (R311); registers that TSTART has read take the new g1-g4. -/
def Rec.twrite (r : Rec) (mask : BitVec 5) (bs : List Byte) : Rec :=
  let w := wordAt bs 0
  let f := fieldAt bs 0x0e 1
  let r := if mask.getLsbD 0 then
      { r with pc := canon w, roam := w.getLsbD 59, prio := BitVec.ofNat 2 (bitsOf w 57 2) } else r
  let r := if mask.getLsbD 1 then { r with table := BitVec.ofNat 10 (fieldAt bs 0x0c 2) } else r
  let r := if mask.getLsbD 2 then { r with save := f.testBit 7, autoreap := f.testBit 0 } else r
  let r := if mask.getLsbD 3 then { r with faultLine := wordAt bs 0x10, inbox := wordAt bs 0x18 } else r
  if mask.getLsbD 4 then
    let set (x : Regs) : Regs :=
      (((x.setG 1 (wordAt bs 0x20)).setG 2 (wordAt bs 0x28)).setG 3 (wordAt bs 0x30)).setG 4 (wordAt bs 0x38)
    { r with
      g1 := wordAt bs 0x20, g2 := wordAt bs 0x28, g3 := wordAt bs 0x30, g4 := wordAt bs 0x38, image := r.image.map set } else r
/-- A selected field breaks a limit (R311). A spilled record of SPILLKIND 2 is a stopped target (log 46). -/
def Rec.twriteBad (r : Rec) (mask : BitVec 5) (bs : List Byte) : Bool :=
  let n := r.twrite mask bs
  let halted := r.state == .stopped || (r.state == .spilled && r.spillKind == 2#2)
  (mask.getLsbD 0 && (wordAt bs 0).getLsbD 0) || (mask.getLsbD 1 && decide (1024 ≤ fieldAt bs 0x0c 2)) ||
  ((mask.getLsbD 3 || mask.getLsbD 2) && n.faultLine.toNat % (if n.save then 4096 else 64) != 0) ||
  (mask.getLsbD 3 && n.inbox.toNat % 64 != 0) || (halted && n.save != r.save)

/-- TWRITE (R311). The faults of the image read come after statuses 8, 3, the right and 6 and 2, and before 4 and 1 (log 58). -/
def execTwrite (mask : BitVec 5) (d a b : GReg) (s : State) : Out :=
  .next (s.targetOp a (if mask.getLsbD 1 then [rWRITE, rGRANT] else [rWRITE]) 3 true (fun s x => s.ret d x) fun r s =>
    s.readBlock (Acc.load 64) (s.g b) fun bs s =>
      if r.state = .bound then s.ret d 4#64
      else if r.twriteBad mask bs then s.ret d 8#64
      else (s.modRec r.tid fun y => y.twrite mask bs).ret d 0#64)

/-- An authority entry that TWRITE.tab refuses (R312; the fields that a KIND uses, log 16). -/
def Part.authBad (p : Part) (x : BitVec 128) : Bool :=
  let k := authKind x
  bitsOf x 3 5 != 0 || bitsOf x 19 5 != 0 || bitsOf x 40 24 != 0 || bitsOf x 72 8 != 0 || bitsOf x 90 38 != 0 || k == 7 ||
  ((k == 1 || k == 2 || k == 3) && !p.bulks.contains (authBulk x)) || ((k == 1 || k == 2) && decide (5 < authCluster x)) ||
  (k == 1 && decide (authHi x < authLo x))
/-- The rights of the caller's KIND 4 entries that grant GRANT, together (R312). -/
def State.grantable (s : State) : Nat :=
  s.myTable.foldl (fun n x => if grants x rGRANT && authKind x == 4 then n ||| authRights x else n) 0

/-- TWRITE.tab (R312). -/
def execTwriteTab (d a b : GReg) (s : State) : Out :=
  .next (s.readBlock (Acc.load 16) (s.g b) fun bs s =>
    let x : BitVec 128 := BitVec.ofNat 128 (leNat bs)
    let w := s.g a
    if bitsOf w 10 6 ≠ 0 ∨ bitsOf w 20 44 ≠ 0 ∨ (s.part s.me.part).authBad x = true then s.ret d 8#64
    else if s.holdsAll rGRANT = false ∨ authRights x &&& s.grantable ≠ authRights x then s.noAuthority w rGRANT 3
    else (s.modPart s.me.part fun p =>
      { p with auth := fset 0#128 p.auth (16 * bitsOf w 0 10 + bitsOf w 16 4) x }).ret d 0#64)

/-- A record is reaped (R313). -/
def State.reap (s : State) (r : Rec) : State :=
  (((s.disarmAll r.tid).departAll r.part r.tid).dropSends r.tid |>.countEnd r).freeRecord r.tid
/-- TREAP (R313). -/
def execTreap (d a : GReg) (s : State) : Out :=
  .next (s.targetOp a [rREAP] 4 true (fun s x => s.ret d x) fun r s =>
    if tidSlot r.tid = 0 then s.ret d 7#64
    else if r.state = .stopped ∨ r.state = .retired ∨ (r.state = .spilled ∧ r.spillKind = 2#2) then (s.reap r).ret d 0#64
    else s.ret d 1#64)

/-- TSTAT's result for a live record (R314). -/
def State.statWord (s : State) (r : Rec) : Word :=
  let at_ := match r.state, r.place with
    | .bound, some (k, _) => s.coreField r.part k
    | _, _ => 0xffff
  BitVec.ofNat 64 (r.state.code * 2 ^ 8 + r.spillKind.toNat * 2 ^ 12 + r.faulted.toNat * 2 ^ 14 + r.sendwait.toNat * 2 ^ 15 +
    s.armed r.tid * 2 ^ 16 + r.pending.toNat * 2 ^ 19 + (!s.vfRuns r.part r.vf).toNat * 2 ^ 23 + r.vf * 2 ^ 24 +
    at_ * 2 ^ 32 + (tidGen r.tid).toNat * 2 ^ 48)
/-- TSTAT (R314). -/
def execTstat (d a : GReg) (s : State) : Out :=
  .next (s.targetOp a [rREAD] 5 false (fun s x => s.ret d x) fun r s => s.ret d (s.statWord r))

end Sys2Proof.Machine
end

