-- ==== Sys2Proof/Machine/Messages.lean ====
section
/-! DEFINITION. Messages (R268-R275): inboxes, delivery, SEND, SENDN, RECV, RECVN, and the events of the send buffer. -/

namespace Sys2Proof.Machine

/-- An inbox descriptor's fields (R268). -/
structure Inbox where
  rbase : Word
  ringK : Nat
  mereK : Nat
  rhead : Nat
  mhead : Nat
  rtail : Nat
  mtail : Nat
  mbase : Word
  bounce : Word
  /-- a reserved bit is set -/
  dirty : Bool
  deriving DecidableEq, Repr

/-- The descriptor in 64 bytes of memory. -/
def Inbox.ofBytes (bs : List Byte) : Inbox :=
  let w := wordAt bs 8
  { rbase := wordAt bs 0, ringK := bitsOf w 0 4, mereK := bitsOf w 4 5, rhead := fieldAt bs 0x10 4, mhead := fieldAt bs 0x14 4,
    rtail := fieldAt bs 0x18 4, mtail := fieldAt bs 0x1c 4, mbase := wordAt bs 0x20, bounce := wordAt bs 0x28,
    dirty := bitsOf w 9 55 != 0 || wordAt bs 0x30 != 0#64 || wordAt bs 0x38 != 0#64 }
/-- Messages in the ring and in the mere. -/
def Inbox.ring (d : Inbox) : Nat := (d.rhead + 2 ^ 32 - d.rtail) % 2 ^ 32
def Inbox.mere (d : Inbox) : Nat := (d.mhead + 2 ^ 32 - d.mtail) % 2 ^ 32
/-- What makes a descriptor bad by its own fields (R268). -/
def Inbox.bad (d : Inbox) : Bool :=
  d.dirty || decide (12 < d.ringK) || decide (16 < d.mereK) || d.rbase.toNat % 64 != 0 || d.mbase.toNat % 64 != 0 ||
  decide (2 ^ d.ringK < d.ring) || decide (2 ^ d.mereK < d.mere)

/-- The agent that works on a thread's inbox: its home bulkhead, under its VF (log 25). -/
def Rec.inboxAgent (r : Rec) : Agent :=
  { recordAgent r.part r.vf (tidBulk r.tid) r.tid (.record r.inbox.toNat 0) with unit := tidUnit r.tid }

/-- What a look at an inbox gives. -/
inductive InboxRes
  | ok (k : Nat) (d : Inbox)
  | bad
  /-- the descriptor's block is marked (R353) -/
  | poison
  /-- a translation is awaited -/
  | wait
  deriving DecidableEq, Repr

/-- An address in device memory or a tarn, for a write of one block (R268). -/
def State.homeOf (s : State) (g : Agent) (va : Word) : Option Nat × Bool × State :=
  match s.access g (Acc.vstore 64) va with
  | (.ok pl, s) => (homeKey pl, true, s)
  | (.fault _ _, s) => (none, true, s)
  | (_, s) => (none, false, s)

/-- Bases of the ring and the mere lie in device memory or a tarn (R268). -/
def State.basesOk (s : State) (g : Agent) (k : Nat) (d : Inbox) : InboxRes × State :=
  match s.homeOf g d.rbase with
  | (none, done, s) => (if done then .bad else .wait, s)
  | (some _, _, s) =>
    match s.homeOf g d.mbase with
    | (none, done, s) => (if done then .bad else .wait, s)
    | (some _, _, s) => (.ok k d, s)

/-- The inbox of a thread whose inbox field is not 0. -/
def State.inboxOf (s : State) (r : Rec) : InboxRes × State :=
  let g := r.inboxAgent
  match s.homeOf g r.inbox with
  | (none, done, s) => (if done then .bad else .wait, s)
  | (some k, _, s) =>
    let d := Inbox.ofBytes (s.mem.bytes k 64)
    if s.mem.poisoned k 64 then (.poison, s) else if d.bad then (.bad, s) else s.basesOk g k d

/-- What a delivery gives: a status, a bounce's reason, full, or a translation awaited. -/
inductive Deliver | done (status : Nat) | bounce (reason : Nat) | full | wait deriving DecidableEq, Repr

/-- A write of the device for a thread: it goes to its home (R150). -/
def State.homeWrite (s : State) (r : Rec) (k : Nat) (bs : List Byte) (poison : Bool) : State :=
  s.agentStore r.part r.vf (.mem k) bs poison

/-- An entry written and its head advanced (R269): `off` is the head's offset in the descriptor. -/
def State.putMsg (s : State) (r : Rec) (k : Nat) (va : Word) (off head : Nat) (m : Msg) (status : Nat) : Deliver × State :=
  match s.homeOf r.inboxAgent va with
  | (some e, _, s) =>
    (.done status, (s.homeWrite r e (leBytes 64 m.body.toNat) false).homeWrite r (k + off) (leBytes 4 (head + 1)) false)
  | (none, true, s) => (.bounce 2, s)
  | (none, false, s) => (.wait, s)

/-- A delivery, one step at the home of the descriptor (R269, R272). -/
def State.deliver (s : State) (m : Msg) : Deliver × State :=
  match s.findRec m.target with
  | none => (.bounce 0, s)
  | some r =>
    if r.state = .retired then (.bounce 0, s)
    else if r.inbox = 0#64 then (.bounce 2, s)
    else match s.inboxOf r with
      | (.bad, s) => (.bounce 2, s)
      | (.poison, s) => (.bounce 2, s)
      | (.wait, s) => (.wait, s)
      | (.ok k d, s) =>
        if d.mhead = d.mtail ∧ d.ring < 2 ^ d.ringK then
          s.putMsg r k (d.rbase + BitVec.ofNat 64 (64 * (d.rhead % 2 ^ d.ringK))) 0x10 d.rhead m 0
        else if d.mere < 2 ^ d.mereK then
          s.putMsg r k (d.mbase + BitVec.ofNat 64 (64 * (d.mhead % 2 ^ d.mereK))) 0x14 d.mhead m 2
        else (.full, s)

/-- e0-e7 as the bytes of a message, e0 first (R268). -/
def Regs.message (r : Regs) : Vec :=
  BitVec.ofNat 512 ((List.range 8).foldl (fun n i => n + (r.getE i).toNat * 2 ^ (64 * i)) 0)
/-- The message of the current instruction. -/
def State.newMsg (s : State) (t : W32) : Msg := { sender := s.tid, target := t, pc := s.pc, body := s.cc.regs.message }
/-- A send-buffer entry of the current instruction. -/
def State.newEntry (s : State) (posted : Bool) (m : Msg) (d : Nat) : SendEntry :=
  { posted := posted, msg := m, dest := d, first := none, tries := 0, vf := s.me.vf, faultLine := s.me.faultLine,
    inbox := s.me.inbox, deep := s.me.deep, extra := false, ended := none }
def State.pushEntry (s : State) (k : Nat) (e : SendEntry) : State := s.modCore k fun c => { c with sendBuf := c.sendBuf ++ [e] }
/-- The target's bulkhead is in the caller's partition (R271). -/
def State.sendable (s : State) (t : W32) : Bool := (s.part s.me.part).bulks.contains (tidBulk t)

/-- SEND (R271): the message leaves and the context waits for the answer. -/
def execSend (d a : GReg) (s : State) : Out :=
  let t : W32 := (s.g a).setWidth 32
  if s.sendable t = false then .next (s.ret d 3#64)
  else .next (s.modCur fun c => { c with msg := some (s.newMsg t, d.toNat), answer := none, wait := .answer })

/-- SENDN (R273). -/
def execSendn (d a : GReg) (s : State) : Out :=
  let t : W32 := (s.g a).setWidth 32
  let k := s.cur.1
  let buf := placed (s.core k).sendBuf
  if s.sendable t = false then .next (s.ret d 3#64)
  else
    let e := s.newEntry true (s.newMsg t) d.toNat
    if buf.length < 64 then .next ((s.pushEntry k e).ret d 0#64)
    else if buf.all fun x => x.posted && x.msg.sender == s.tid then
      .next ((s.pushEntry k { e with extra := true }).suspend (.send d.toNat) 4)
    else .next s

/-- The answer that stands for a full inbox. -/
def fullAnswer : Word := BitVec.allOnes 64
/-- A status of SEND (R271). -/
def Deliver.status : Deliver → Option Word
  | .done x => some (BitVec.ofNat 64 x)
  | .bounce r => some (BitVec.ofNat 64 (1 + 256 * r))
  | .full => some fullAnswer
  | .wait => none

/-- MESSAGE_DELIVERY (R269, R271, R272): the message of a context's SEND reaches its target. -/
def execMessageDelivery (core ctx : Nat) (s : State) : Out :=
  match (s.ctx core ctx).msg with
  | none => .next s
  | some (m, _) =>
    if (s.ctx core ctx).answer.isSome then .next s
    else
      let (r, s) := s.deliver m
      let now := s.tsOf (s.recOf (s.ctx core ctx).tid).part
      .next (s.modCtx core ctx fun c => { c with answer := r.status, answeredAt := now })

/-- The thread of a context suspends inside a blocked SEND (R271); `first` is when its delivery found the inbox full (R270). -/
def State.blockSend (s : State) (k c : Nat) (m : Msg) (d : Nat) : State :=
  let r := s.recOf m.sender
  let e : SendEntry := { posted := false, msg := m, dest := d, first := some (s.ctx k c).answeredAt, tries := 0, vf := r.vf,
                         faultLine := r.faultLine, inbox := r.inbox, deep := r.deep, extra := false, ended := none }
  let s := (s.count k 16 none 1).pushEntry k e
  let old := s.cur
  let s := (s.modCtx k c fun x => { x with msg := none, answer := none, wait := .none_ })
  { ({ s with cur := (k, c) }.suspend (.send d) 4) with cur := old }

/-- SEND_ANSWER (R271): the answer reaches the sender: its status is written, or the SEND blocks, once a send-buffer entry is
free. -/
def execSendAnswer (core ctx : Nat) (s : State) : Out :=
  let x := s.ctx core ctx
  match x.msg, x.answer with
  | some (m, d), some w =>
    if w = fullAnswer then
      if (placed (s.core core).sendBuf).length < 64 && x.carryFull then .next (s.blockSend core ctx m d) else .next s
    else .next ((s.modCtx core ctx fun c => { c with msg := none }).reply core ctx d w)
  | _, _ => .next s

/-- A posted entry of a thread, placed (R273). -/
def SendEntry.postedBy (t : W32) (e : SendEntry) : Bool := e.posted && !e.extra && e.msg.sender == t
/-- An entry leaves a send buffer; a SENDN of its thread that waits for it, the oldest, takes its place, with status 0 (R273). -/
def State.popEntry (s : State) (k n : Nat) : State :=
  let l := (s.core k).sendBuf
  let rest := l.eraseIdx n
  let set (s : State) (x : List SendEntry) : State := s.modCore k fun c => { c with sendBuf := x }
  match l[n]? with
  | none => s
  | some e =>
    let t := e.msg.sender
    match rest.find? fun x => x.extra && x.msg.sender == t with
    | none => set s rest
    | some x =>
      if e.postedBy t = false ∨ (l.take n).any (SendEntry.postedBy t) = true then set s rest
      else
        let s := set s (rest.erase x ++ [{ x with extra := false }])
        if (s.recOf t).sendwait then s.resumeSend t x.dest 0#64 else s

/-- The bounce line of a sender (R273), once its inbox can be read. -/
def State.bounceLine (s : State) (e : SendEntry) (r : Rec) : Option Word × State :=
  if r.inbox = 0#64 then (some r.faultLine, s)
  else match s.access r.inboxAgent (Acc.vload 64) r.inbox with
    | (.ok pl, s) =>
      let b := if (homeKey pl).isSome then wordAt (s.readPlace r.part pl 64) 0x28 else 0#64
      (some (if b = 0#64 then r.faultLine else b), s)
    | (.fault _ _, s) => (some e.faultLine, s)
    | (_, s) => (none, s)

/-- An entry of a send buffer is over but for its record (R271, R273): it is not delivered again. -/
def State.endEntry (s : State) (k n : Nat) (e : SendEntry) (reason : Nat) : State :=
  s.modCore k fun c => { c with sendBuf := c.sendBuf.set n { e with ended := some reason } }
/-- A posted message bounces (R273): its record, a notice, and its entry leaves. -/
def State.bounce (s : State) (k n : Nat) (e : SendEntry) (reason : Nat) : State :=
  let t := e.msg.sender
  let part := ((s.partOf (k / 32)).getD 0)
  let r := match s.findRec t with
    | some r => r
    | none => { Rec.empty with tid := t, part := part, vf := e.vf, faultLine := e.faultLine, inbox := e.inbox }
  match s.bounceLine e r with
  | (none, s) => s.endEntry k n e reason
  | (some line, s) =>
    (s.popEntry k n).emit (k / 32) part line
      { code := 0x22, engine := false, notice := true, saved := false, late := false, tid := t, pc := e.msg.pc,
        addr := e.msg.target.setWidth 64, detail := BitVec.ofNat 64 reason, vf := e.vf, core := s.coreField part k } 0

/-- The registers of the stop block of a thread that SEND_STALL stops: the resume state, with e0-e7 as the SEND read them
(R17, R275; log 88). -/
def Rec.stallRegs (r : Rec) (m : Msg) : Regs :=
  { r.resumeRegs with e := (List.range 8).map fun i => (i, BitVec.ofNat 64 (bitsOf m.body (64 * i) 64)) }
/-- A blocked SEND has failed for the last time (R271): its thread stops with 0x21, once its records can be written. -/
def State.sendStall (s : State) (k n : Nat) (e : SendEntry) : State :=
  let t := e.msg.sender
  let r := s.recOf t
  let rc : FaultRec :=
    { code := 0x21, engine := false, notice := false, saved := false, late := false, tid := t, pc := e.msg.pc,
      addr := e.msg.target.setWidth 64, detail := BitVec.ofNat 64 (e.first.getD 0), vf := r.vf, core := s.coreField r.part k }
  let fin (s : State) : State :=
    ((s.summary r.part r.vf t).popEntry k n).modRec t fun y =>
      { y with
        state := .stopped, faulted := true, sendwait := false, deadline := none, pc := e.msg.pc, deliver := false, result := none }
  s.stopRecord (r.agent (tidBulk t) (.record 0 0)) (tidBulk t) r (r.stallRegs e.msg) (some rc) (fun s => s.endEntry k n e 1) fin

/-- An entry's next attempt is due (R270): its first, or that of its own schedule, once a blocked SEND's thread has suspended
(log 101). -/
def State.attemptDue (s : State) (k : Nat) (e : SendEntry) : Bool :=
  (match e.first with
   | none => true
   | some f => decide (f + 64 * (e.tries + 1) ≤ s.tsOf ((s.partOf (k / 32)).getD 0))) &&
  (e.posted || (s.recOf e.msg.sender).sendwait) && !e.extra && e.ended.isNone
/-- The entries of a core before the n-th that go to its target. -/
def State.sendAhead (s : State) (k n : Nat) (e : SendEntry) : List SendEntry :=
  (placed ((s.core k).sendBuf.take n)).filter fun x => x.msg.target == e.msg.target
/-- Entry n may be worked on (R270): its attempt is due and none before it to its target has one due; or it is over but for its
record. -/
def State.sendDue (s : State) (k n : Nat) (e : SendEntry) : Bool :=
  e.ended.isSome || (s.attemptDue k e && !((s.sendAhead k n e).any (s.attemptDue k)))

/-- A full inbox found by an attempt (R270): the first, one of the sixteen, or the last. -/
def State.sendFull (s : State) (k n : Nat) (e : SendEntry) : State :=
  let s := s.count k 16 none 1
  let e' : SendEntry := match e.first with
    | none => { e with first := some (s.tsOf ((s.partOf (k / 32)).getD 0)) }
    | some _ => { e with tries := e.tries + 1 }
  if e'.tries < 16 then s.modCore k fun c => { c with sendBuf := c.sendBuf.set n e' }
  else if e.posted then s.bounce k n e' 1 else s.sendStall k n e'

/-- SEND_RETRY (R270-R273): an entry of a send buffer is attempted; its ticks stand still from the S of a switch on
(R288). One with an earlier entry to its target finds it full with that one, and so does not overtake it (log 102). -/
def execSendRetry (core n : Nat) (s : State) : Out :=
  match (s.core core).sendBuf[n]? with
  | none => .next s
  | some e =>
    if s.sendDue core n e = false ∨ (savesSend e.vf e && s.atSwitch ((s.partOf (core / 32)).getD 0) e.vf) = true then .next s
    else match e.ended with
      | some r => if e.posted then .next (s.bounce core n e r) else .next (s.sendStall core n e)
      | none =>
        if !(s.sendAhead core n e).isEmpty then .next (s.sendFull core n e)
        else match s.deliver e.msg with
        | (.wait, s) => .next s
        | (.full, s) => .next (s.sendFull core n e)
        | (.bounce r, s) =>
          if e.posted then .next (s.bounce core n e r)
          else .next ((s.popEntry core n).resumeSend e.msg.sender e.dest (BitVec.ofNat 64 (1 + 256 * r)))
        | (.done x, s) =>
          let s := s.popEntry core n
          if e.posted then .next s else .next (s.resumeSend e.msg.sender e.dest (BitVec.ofNat 64 x))

/-- A message taken from the ring or the mere and written to the caller's block (R274). -/
def State.takeMsg (s : State) (r : Rec) (d : GReg) (pl : Place) (k : Nat) (va : Word) (off tail status : Nat) : State :=
  match s.homeOf r.inboxAgent va with
  | (some e, _, s) =>
    let bs := s.mem.bytes e 64
    let p := s.mem.poisoned e 64
    let s := s.homeWrite r (k + off) (leBytes 4 (tail + 1)) false
    (s.storeAt r.part r.vf (some s.cur.1) s.cur pl bs p).launchProd (.g d.toNat) .done_ (.valueG (BitVec.ofNat 64 status)) 4
  | (none, true, s) => s.fault 0x26 r.inbox 0#64
  | (none, false, s) => s.hold false va

/-- RECV (R274). A poisoned descriptor is fault 0x61 (R353, log 74). -/
def execRecv (d a : GReg) (s : State) : Out :=
  .next (s.threadAccess (Acc.vstore 64) (s.g a) fun pl s =>
    let r := s.me
    let out (s : State) (x : Nat) : State := s.launchProd (.g d.toNat) .done_ (.valueG (BitVec.ofNat 64 x)) 4
    if r.inbox = 0#64 then out s 4
    else match s.inboxOf r with
      | (.bad, s) => s.fault 0x26 r.inbox 0#64
      | (.poison, s) => s.fault 0x61 r.inbox 0#64
      | (.wait, s) => s.hold false r.inbox
      | (.ok k x, s) =>
        if x.ring ≠ 0 then s.takeMsg r d pl k (x.rbase + BitVec.ofNat 64 (64 * (x.rtail % 2 ^ x.ringK))) 0x18 x.rtail 0
        else if x.mere ≠ 0 then s.takeMsg r d pl k (x.mbase + BitVec.ofNat 64 (64 * (x.mtail % 2 ^ x.mereK))) 0x1c x.mtail 2
        else out s 1)

/-- RECVN (R274). -/
def execRecvn (d : GReg) (s : State) : Out :=
  let r := s.me
  if r.inbox = 0#64 then .next (s.ret d 0#64)
  else match s.inboxOf r with
    | (.bad, s) => .next (s.fault 0x26 r.inbox 0#64)
    | (.poison, s) => .next (s.fault 0x61 r.inbox 0#64)
    | (.wait, s) => .next (s.hold false r.inbox)
    | (.ok _ x, s) => .next (s.ret d (BitVec.ofNat 64 (x.ring + x.mere * 2 ^ 32)))

end Sys2Proof.Machine
end

