-- ==== Sys2Proof/Machine/Dispatch.lean ====
section
/-! DEFINITION. What each instruction and event does: one arm per constructor, each one call of its meaning. -/

namespace Sys2Proof.Machine

/-- One instruction or event (one arm per row of the opcode table). -/
def exec (i : Instr) (s : State) : Host.Outcome State Fault Refusal :=
  match i with
  | .add d a b => Sys2Proof.Machine.execAdd d a b s
  | .sub d a b => Sys2Proof.Machine.execSub d a b s
  | .and d a b => Sys2Proof.Machine.execAnd d a b s
  | .or d a b => Sys2Proof.Machine.execOr d a b s
  | .xor d a b => Sys2Proof.Machine.execXor d a b s
  | .shl d a b => Sys2Proof.Machine.execShl d a b s
  | .shr d a b => Sys2Proof.Machine.execShr d a b s
  | .sra d a b => Sys2Proof.Machine.execSra d a b s
  | .rot d a b => Sys2Proof.Machine.execRot d a b s
  | .min d a b => Sys2Proof.Machine.execMin d a b s
  | .max d a b => Sys2Proof.Machine.execMax d a b s
  | .minu d a b => Sys2Proof.Machine.execMinu d a b s
  | .maxu d a b => Sys2Proof.Machine.execMaxu d a b s
  | .sel d a b => Sys2Proof.Machine.execSel d a b s
  | .slt d a b => Sys2Proof.Machine.execSlt d a b s
  | .sltu d a b => Sys2Proof.Machine.execSltu d a b s
  | .mul d a b => Sys2Proof.Machine.execMul d a b s
  | .mulh d a b => Sys2Proof.Machine.execMulh d a b s
  | .mulhu d a b => Sys2Proof.Machine.execMulhu d a b s
  | .div d a b => Sys2Proof.Machine.execDiv d a b s
  | .divu d a b => Sys2Proof.Machine.execDivu d a b s
  | .rem d a b => Sys2Proof.Machine.execRem d a b s
  | .remu d a b => Sys2Proof.Machine.execRemu d a b s
  | .clz d a => Sys2Proof.Machine.execClz d a s
  | .ctz d a => Sys2Proof.Machine.execCtz d a s
  | .popc d a => Sys2Proof.Machine.execPopc d a s
  | .sext z d a => Sys2Proof.Machine.execSext z d a s
  | .zext z d a => Sys2Proof.Machine.execZext z d a s
  | .seq d a b => Sys2Proof.Machine.execSeq d a b s
  | .sne d a b => Sys2Proof.Machine.execSne d a b s
  | .brev d a => Sys2Proof.Machine.execBrev d a s
  | .addi d a imm => Sys2Proof.Machine.execAddi d a imm s
  | .andi d a imm => Sys2Proof.Machine.execAndi d a imm s
  | .ori d a imm => Sys2Proof.Machine.execOri d a imm s
  | .xori d a imm => Sys2Proof.Machine.execXori d a imm s
  | .shli d a n => Sys2Proof.Machine.execShli d a n s
  | .shri d a n => Sys2Proof.Machine.execShri d a n s
  | .srai d a n => Sys2Proof.Machine.execSrai d a n s
  | .slti d a imm => Sys2Proof.Machine.execSlti d a imm s
  | .movi d imm => Sys2Proof.Machine.execMovi d imm s
  | .lis d imm => Sys2Proof.Machine.execLis d imm s
  | .fadd p rm d a b => Sys2Proof.Machine.execFadd p rm d a b s
  | .fsub p rm d a b => Sys2Proof.Machine.execFsub p rm d a b s
  | .fmul p rm d a b => Sys2Proof.Machine.execFmul p rm d a b s
  | .fdiv p rm d a b => Sys2Proof.Machine.execFdiv p rm d a b s
  | .fsqrt p rm d a => Sys2Proof.Machine.execFsqrt p rm d a s
  | .fmin p d a b => Sys2Proof.Machine.execFmin p d a b s
  | .fmax p d a b => Sys2Proof.Machine.execFmax p d a b s
  | .ffma p rm d a b => Sys2Proof.Machine.execFfma p rm d a b s
  | .fcvt k p rm d a => Sys2Proof.Machine.execFcvt k p rm d a s
  | .fclass p d a => Sys2Proof.Machine.execFclass p d a s
  | .feq p d a b => Sys2Proof.Machine.execFeq p d a b s
  | .flt p d a b => Sys2Proof.Machine.execFlt p d a b s
  | .fle p d a b => Sys2Proof.Machine.execFle p d a b s
  | .beq a b off => Sys2Proof.Machine.execBeq a b off s
  | .bne a b off => Sys2Proof.Machine.execBne a b off s
  | .blt a b off => Sys2Proof.Machine.execBlt a b off s
  | .bge a b off => Sys2Proof.Machine.execBge a b off s
  | .bltu a b off => Sys2Proof.Machine.execBltu a b off s
  | .bgeu a b off => Sys2Proof.Machine.execBgeu a b off s
  | .j off => Sys2Proof.Machine.execJ off s
  | .jal off => Sys2Proof.Machine.execJal off s
  | .jr a => Sys2Proof.Machine.execJr a s
  | .jalr d a => Sys2Proof.Machine.execJalr d a s
  | .sete f n a => Sys2Proof.Machine.execSete f n a s
  | .gete f d n => Sys2Proof.Machine.execGete f d n s
  | .rdts d => Sys2Proof.Machine.execRdts d s
  | .rdid ix d => Sys2Proof.Machine.execRdid ix d s
  | .poolw n => Sys2Proof.Machine.execPoolw n s
  | .yieldG => Sys2Proof.Machine.execYieldG s
  | .ld z o c d a off => Sys2Proof.Machine.execLd z o c d a off s
  | .lds z o c d a off => Sys2Proof.Machine.execLds z o c d a off s
  | .st z o c d a off => Sys2Proof.Machine.execSt z o c d a off s
  | .ldfe o c d a off => Sys2Proof.Machine.execLdfe o c d a off s
  | .ldf o c d a off => Sys2Proof.Machine.execLdf o c d a off s
  | .stef o c d a off => Sys2Proof.Machine.execStef o c d a off s
  | .stf o c d a off => Sys2Proof.Machine.execStf o c d a off s
  | .fence k c => Sys2Proof.Machine.execFence k c s
  | .feget d => Sys2Proof.Machine.execFeget d s
  | .feset a => Sys2Proof.Machine.execFeset a s
  | .pref l2 own a => Sys2Proof.Machine.execPref l2 own a s
  | .flush out inv a => Sys2Proof.Machine.execFlush out inv a s
  | .gjoin d a => Sys2Proof.Machine.execGjoin d a s
  | .gleave d a => Sys2Proof.Machine.execGleave d a s
  | .gload d a b => Sys2Proof.Machine.execGload d a b s
  | .amoAdd dbl o c d a b => Sys2Proof.Machine.execAmoAdd dbl o c d a b s
  | .amoAnd dbl o c d a b => Sys2Proof.Machine.execAmoAnd dbl o c d a b s
  | .amoOr dbl o c d a b => Sys2Proof.Machine.execAmoOr dbl o c d a b s
  | .amoXor dbl o c d a b => Sys2Proof.Machine.execAmoXor dbl o c d a b s
  | .amoMin dbl o c d a b => Sys2Proof.Machine.execAmoMin dbl o c d a b s
  | .amoMax dbl o c d a b => Sys2Proof.Machine.execAmoMax dbl o c d a b s
  | .amoMinu dbl o c d a b => Sys2Proof.Machine.execAmoMinu dbl o c d a b s
  | .amoMaxu dbl o c d a b => Sys2Proof.Machine.execAmoMaxu dbl o c d a b s
  | .amoSwap dbl o c d a b => Sys2Proof.Machine.execAmoSwap dbl o c d a b s
  | .amoFadd dbl o c d a b => Sys2Proof.Machine.execAmoFadd dbl o c d a b s
  | .cas dbl o c d a b => Sys2Proof.Machine.execCas dbl o c d a b s
  | .vadd t d a b => Sys2Proof.Machine.execVadd t d a b s
  | .vsub t d a b => Sys2Proof.Machine.execVsub t d a b s
  | .vmul t d a b => Sys2Proof.Machine.execVmul t d a b s
  | .vdiv t d a b => Sys2Proof.Machine.execVdiv t d a b s
  | .vmin t d a b => Sys2Proof.Machine.execVmin t d a b s
  | .vmax t d a b => Sys2Proof.Machine.execVmax t d a b s
  | .vabs t d a => Sys2Proof.Machine.execVabs t d a s
  | .vneg t d a => Sys2Proof.Machine.execVneg t d a s
  | .vsqrt t d a => Sys2Proof.Machine.execVsqrt t d a s
  | .vrcp t d a => Sys2Proof.Machine.execVrcp t d a s
  | .vrsq t d a => Sys2Proof.Machine.execVrsq t d a s
  | .vexp2 t d a => Sys2Proof.Machine.execVexp2 t d a s
  | .vlog2 t d a => Sys2Proof.Machine.execVlog2 t d a s
  | .vaddI z d a b => Sys2Proof.Machine.execVaddI z d a b s
  | .vsubI z d a b => Sys2Proof.Machine.execVsubI z d a b s
  | .vmulI z d a b => Sys2Proof.Machine.execVmulI z d a b s
  | .vminI z d a b => Sys2Proof.Machine.execVminI z d a b s
  | .vmaxI z d a b => Sys2Proof.Machine.execVmaxI z d a b s
  | .vminuI z d a b => Sys2Proof.Machine.execVminuI z d a b s
  | .vmaxuI z d a b => Sys2Proof.Machine.execVmaxuI z d a b s
  | .vshlI z d a b => Sys2Proof.Machine.execVshlI z d a b s
  | .vshrI z d a b => Sys2Proof.Machine.execVshrI z d a b s
  | .vsraI z d a b => Sys2Proof.Machine.execVsraI z d a b s
  | .vandI z d a b => Sys2Proof.Machine.execVandI z d a b s
  | .vorI z d a b => Sys2Proof.Machine.execVorI z d a b s
  | .vxorI z d a b => Sys2Proof.Machine.execVxorI z d a b s
  | .vfmaBcast h t lane d a b => Sys2Proof.Machine.execVfmaBcast h t lane d a b s
  | .vfma h t d a b => Sys2Proof.Machine.execVfma h t d a b s
  | .vfms h t d a b => Sys2Proof.Machine.execVfms h t d a b s
  | .vfnma h t d a b => Sys2Proof.Machine.execVfnma h t d a b s
  | .vcmp c m a b => Sys2Proof.Machine.execVcmp c m a b s
  | .vsel m d a b => Sys2Proof.Machine.execVsel m d a b s
  | .vtest q m d a b => Sys2Proof.Machine.execVtest q m d a b s
  | .vcvt c d a b => Sys2Proof.Machine.execVcvt c d a b s
  | .vpack c d a b => Sys2Proof.Machine.execVpack c d a b s
  | .vunpk c hi d a => Sys2Proof.Machine.execVunpk c hi d a s
  | .vscale t d a b => Sys2Proof.Machine.execVscale t d a b s
  | .vperm dbl d a b => Sys2Proof.Machine.execVperm dbl d a b s
  | .vbcast z d a => Sys2Proof.Machine.execVbcast z d a s
  | .vred o d a => Sys2Proof.Machine.execVred o d a s
  | .vmovg ix d a => Sys2Proof.Machine.execVmovg ix d a s
  | .vmovv d a => Sys2Proof.Machine.execVmovv d a s
  | .vlane ix d a => Sys2Proof.Machine.execVlane ix d a s
  | .vld o c d a off => Sys2Proof.Machine.execVld o c d a off s
  | .vst o c d a off => Sys2Proof.Machine.execVst o c d a off s
  | .vlds z d a b => Sys2Proof.Machine.execVlds z d a b s
  | .vsts z d a b => Sys2Proof.Machine.execVsts z d a b s
  | .vgath dbl d a b => Sys2Proof.Machine.execVgath dbl d a b s
  | .vscat dbl d a b => Sys2Proof.Machine.execVscat dbl d a b s
  | .vstm n1 d a => Sys2Proof.Machine.execVstm n1 d a s
  | .vldm n1 d a => Sys2Proof.Machine.execVldm n1 d a s
  | .xclr rel a b => Sys2Proof.Machine.execXclr rel a b s
  | .xadd rel f a b => Sys2Proof.Machine.execXadd rel f a b s
  | .xmadd rel vec a b c => Sys2Proof.Machine.execXmadd rel vec a b c s
  | .xrnd acq p rm d a => Sys2Proof.Machine.execXrnd acq p rm d a s
  | .xmerge rel a b => Sys2Proof.Machine.execXmerge rel a b s
  | .mma x d t => Sys2Proof.Machine.execMma x d t s
  | .mmag x d t => Sys2Proof.Machine.execMmag x d t s
  | .mzero x d t => Sys2Proof.Machine.execMzero x d t s
  | .mload x d t => Sys2Proof.Machine.execMload x d t s
  | .mdrain x d t => Sys2Proof.Machine.execMdrain x d t s
  | .mdres d t => Sys2Proof.Machine.execMdres d t s
  | .accrd d t a => Sys2Proof.Machine.execAccrd d t a s
  | .mstat d t => Sys2Proof.Machine.execMstat d t s
  | .dpload x d a b => Sys2Proof.Machine.execDpload x d a b s
  | .cpy x d => Sys2Proof.Machine.execCpy x d s
  | .cpys x d => Sys2Proof.Machine.execCpys x d s
  | .cpyg x d => Sys2Proof.Machine.execCpyg x d s
  | .fill x d => Sys2Proof.Machine.execFill x d s
  | .gate d a b => Sys2Proof.Machine.execGate d a b s
  | .watch d a => Sys2Proof.Machine.execWatch d a s
  | .unwatch d a => Sys2Proof.Machine.execUnwatch d a s
  | .unwatchAll d => Sys2Proof.Machine.execUnwatchAll d s
  | .spawn d a => Sys2Proof.Machine.execSpawn d a s
  | .migrate a => Sys2Proof.Machine.execMigrate a s
  | .wake d a => Sys2Proof.Machine.execWake d a s
  | .sleepT a => Sys2Proof.Machine.execSleepT a s
  | .send d a => Sys2Proof.Machine.execSend d a s
  | .sendn d a => Sys2Proof.Machine.execSendn d a s
  | .recv d a => Sys2Proof.Machine.execRecv d a s
  | .recvn d => Sys2Proof.Machine.execRecvn d s
  | .tstop d a => Sys2Proof.Machine.execTstop d a s
  | .tstart d a => Sys2Proof.Machine.execTstart d a s
  | .tread d a b => Sys2Proof.Machine.execTread d a b s
  | .treadTab d a b => Sys2Proof.Machine.execTreadTab d a b s
  | .treadLog d a b => Sys2Proof.Machine.execTreadLog d a b s
  | .twrite mask d a b => Sys2Proof.Machine.execTwrite mask d a b s
  | .twriteTab d a b => Sys2Proof.Machine.execTwriteTab d a b s
  | .treap d a => Sys2Proof.Machine.execTreap d a s
  | .tstat d a => Sys2Proof.Machine.execTstat d a s
  | .nest d a => Sys2Proof.Machine.execNest d a s
  | .iter d a => Sys2Proof.Machine.execIter d a s
  | .iterStep => Sys2Proof.Machine.execIterStep s
  | .svc d a b => Sys2Proof.Machine.execSvc d a b s
  | .codemap d a => Sys2Proof.Machine.execCodemap d a s
  | .codemapRel d a => Sys2Proof.Machine.execCodemapRel d a s
  | .xlinv d a b => Sys2Proof.Machine.execXlinv d a b s
  | .xlinvVf d => Sys2Proof.Machine.execXlinvVf d s
  | .xlinvAll d => Sys2Proof.Machine.execXlinvAll d s
  | .preempt d a b => Sys2Proof.Machine.execPreempt d a b s
  | .preemptWd d => Sys2Proof.Machine.execPreemptWd d s
  | .pcrd d a => Sys2Proof.Machine.execPcrd d a s
  | .pcrdCtl d a => Sys2Proof.Machine.execPcrdCtl d a s
  | .pcset a b => Sys2Proof.Machine.execPcset a b s
  | .pcsetVal a b => Sys2Proof.Machine.execPcsetVal a b s
  | .nop => Sys2Proof.Machine.execNop s
  | .mov d z => Sys2Proof.Machine.execMov d z s
  | .addiS d imm => Sys2Proof.Machine.execAddiS d imm s
  | .bz d off => Sys2Proof.Machine.execBz d off s
  | .bnz d off => Sys2Proof.Machine.execBnz d off s
  | .jS off => Sys2Proof.Machine.execJS off s
  | .ret => Sys2Proof.Machine.execRet s
  | .sleep => Sys2Proof.Machine.execSleep s
  | .yield => Sys2Proof.Machine.execYield s
  | .once => Sys2Proof.Machine.execOnce s
  | .pool n => Sys2Proof.Machine.execPool n s
  | .lddS d b => Sys2Proof.Machine.execLddS d b s
  | .stdS d b => Sys2Proof.Machine.execStdS d b s
  | .shliS d n => Sys2Proof.Machine.execShliS d n s
  | .endThread => Sys2Proof.Machine.execEndThread s
  | .bind core ctx => Sys2Proof.Machine.execBind core ctx s
  | .priorityPromotion tid => Sys2Proof.Machine.execPriorityPromotion tid s
  | .sleepDeadline tid => Sys2Proof.Machine.execSleepDeadline tid s
  | .watchWake tid n => Sys2Proof.Machine.execWatchWake tid n s
  | .coarseWake bh => Sys2Proof.Machine.execCoarseWake bh s
  | .feParkRequest core ctx => Sys2Proof.Machine.execFeParkRequest core ctx s
  | .wordWake word => Sys2Proof.Machine.execWordWake word s
  | .longLatencyResult core ctx n => Sys2Proof.Machine.execLongLatencyResult core ctx n s
  | .lateFault core ctx n => Sys2Proof.Machine.execLateFault core ctx n s
  | .oncePost core ctx => Sys2Proof.Machine.execOncePost core ctx s
  | .suspensionComplete core ctx => Sys2Proof.Machine.execSuspensionComplete core ctx s
  | .stopComplete core ctx => Sys2Proof.Machine.execStopComplete core ctx s
  | .slotTakeRecord p slot => Sys2Proof.Machine.execSlotTakeRecord p slot s
  | .launchWakeMessage p cl => Sys2Proof.Machine.execLaunchWakeMessage p cl s
  | .heldSpawn core => Sys2Proof.Machine.execHeldSpawn core s
  | .launchCompletionDecrement p id fc => Sys2Proof.Machine.execLaunchCompletionDecrement p id fc s
  | .gangSwitchDeadline p => Sys2Proof.Machine.execGangSwitchDeadline p s
  | .switchRestore p => Sys2Proof.Machine.execSwitchRestore p s
  | .grainChange bh slice => Sys2Proof.Machine.execGrainChange bh slice s
  | .coherenceRequest core addr k => Sys2Proof.Machine.execCoherenceRequest core addr k s
  | .hostSnoop p line k => Sys2Proof.Machine.execHostSnoop p line k s
  | .birsp bh line inv dirty => Sys2Proof.Machine.execBirsp bh line inv dirty s
  | .hostMemoryRequest port pa r => Sys2Proof.Machine.execHostMemoryRequest port pa r s
  | .hostAtomicop port pa op dbl x y => Sys2Proof.Machine.execHostAtomicop port pa op dbl x y s
  | .crossBulkheadAccess imp exp dpa r => Sys2Proof.Machine.execCrossBulkheadAccess imp exp dpa r s
  | .clusterPowerGate cl => Sys2Proof.Machine.execClusterPowerGate cl s
  | .clusterUngate cl => Sys2Proof.Machine.execClusterUngate cl s
  | .matrixCommandStart cl n => Sys2Proof.Machine.execMatrixCommandStart cl n s
  | .matrixCommandComplete cl => Sys2Proof.Machine.execMatrixCommandComplete cl s
  | .drainRow cl => Sys2Proof.Machine.execDrainRow cl s
  | .dploadImageRead cl n => Sys2Proof.Machine.execDploadImageRead cl n s
  | .outboundForward u => Sys2Proof.Machine.execOutboundForward u s
  | .streamerArrival cl n => Sys2Proof.Machine.execStreamerArrival cl n s
  | .streamerPiece cl => Sys2Proof.Machine.execStreamerPiece cl s
  | .gateEnterQueue u n => Sys2Proof.Machine.execGateEnterQueue u n s
  | .groupTimerExpiry p g => Sys2Proof.Machine.execGroupTimerExpiry p g s
  | .groupFillData p g => Sys2Proof.Machine.execGroupFillData p g s
  | .messageDelivery core ctx => Sys2Proof.Machine.execMessageDelivery core ctx s
  | .sendAnswer core ctx => Sys2Proof.Machine.execSendAnswer core ctx s
  | .sendRetry core n => Sys2Proof.Machine.execSendRetry core n s
  | .doorbellWrite port vf q x => Sys2Proof.Machine.execDoorbellWrite port vf q x s
  | .slotMap p slot => Sys2Proof.Machine.execSlotMap p slot s
  | .slotUnmap p slot => Sys2Proof.Machine.execSlotUnmap p slot s
  | .codemapScan p => Sys2Proof.Machine.execCodemapScan p s
  | .partitionStart p => Sys2Proof.Machine.execPartitionStart p s
  | .partitionReset p => Sys2Proof.Machine.execPartitionReset p s
  | .vfReset p => Sys2Proof.Machine.execVfReset p s
  | .functionLevelReset vf => Sys2Proof.Machine.execFunctionLevelReset vf s
  | .bulkheadReset b pass => Sys2Proof.Machine.execBulkheadReset b pass s
  | .bulkheadFault b pass => Sys2Proof.Machine.execBulkheadFault b pass s
  | .uncorrectableError b => Sys2Proof.Machine.execUncorrectableError b s
  | .atsTranslationCompletion bh n ans => Sys2Proof.Machine.execAtsTranslationCompletion bh n ans s
  | .priResponse bh n code => Sys2Proof.Machine.execPriResponse bh n code s
  | .atsInvalidateRequest p pasid vpage pages => Sys2Proof.Machine.execAtsInvalidateRequest p pasid vpage pages s
  | .invalidateCompletion p => Sys2Proof.Machine.execInvalidateCompletion p s
  | .linkStateChange port up cxl => Sys2Proof.Machine.execLinkStateChange port up cxl s
  | .hostRequestTimeout p n => Sys2Proof.Machine.execHostRequestTimeout p n s
  | .remoteInboundAccess port pkg part p dpa r => Sys2Proof.Machine.execRemoteInboundAccess port pkg part p dpa r s
  | .remoteTimeout n => Sys2Proof.Machine.execRemoteTimeout n s
  | .laneStop port lane => Sys2Proof.Machine.execLaneStop port lane s
  | .laneGo port lane => Sys2Proof.Machine.execLaneGo port lane s
  | .vfTableWrite port p vf x => Sys2Proof.Machine.execVfTableWrite port p vf x s
  | .windowTableWrite p w hi x => Sys2Proof.Machine.execWindowTableWrite p w hi x s
  | .replayInject p => Sys2Proof.Machine.execReplayInject p s
  | .moduleReset img => Sys2Proof.Machine.execModuleReset img s
  | .firmwareRunning => Sys2Proof.Machine.execFirmwareRunning s
  | .quoteRequest => Sys2Proof.Machine.execQuoteRequest s
  | .pwrcapWrite x => Sys2Proof.Machine.execPwrcapWrite x s
  | .powerSample now peak tdie tin => Sys2Proof.Machine.execPowerSample now peak tdie tin s
  | .powerThrottle on => Sys2Proof.Machine.execPowerThrottle on s
  | .thermalThrottle on => Sys2Proof.Machine.execThermalThrottle on s
  | .overtempReset die pass => Sys2Proof.Machine.execOvertempReset die pass s
  | .registerWrite off x => Sys2Proof.Machine.execRegisterWrite off x s
  | .hostLinkCompletion p n r => Sys2Proof.Machine.execHostLinkCompletion p n r s
  | .remoteResponse n r => Sys2Proof.Machine.execRemoteResponse n r s
  | .reedLinkStateChange port up => Sys2Proof.Machine.execReedLinkStateChange port up s
  | .flitReplay port => Sys2Proof.Machine.execFlitReplay port s
  | .scWindowClose core ctx => Sys2Proof.Machine.execScWindowClose core ctx s

end Sys2Proof.Machine
end

