-- ==== Sys2Proof/Machine/Stall.lean ====
section
/-! DEFINITION. What a context's next instruction waits for beyond full registers (R254): room in a queue, earlier
accesses, a scanner, and instruction fetch through the L1 (R141). -/

namespace Sys2Proof.Machine

/-- Instructions that are releases at part scope of the caller's earlier accesses (R180, R263, R265, R271, R273, R294, R307, R335,
R367). -/
def partRelease : Instr → Bool
  | .wake .. => true
  | .spawn .. => true
  | .send .. => true
  | .sendn .. => true
  | .svc .. => true
  | .nest .. => true
  | .gload .. => true
  | .tstop .. => true
  | .tstart .. => true
  | .tread .. => true
  | .treadTab .. => true
  | .treadLog .. => true
  | .twrite .. => true
  | .twriteTab .. => true
  | .treap .. => true
  | .tstat .. => true
  | .xlinv .. => true
  | .xlinvVf .. => true
  | .xlinvAll .. => true
  | .preempt .. => true
  | .preemptWd .. => true
  | .codemap .. => true
  | .codemapRel .. => true
  | _ => false
/-- An instruction that reads or writes memory, or that is such a release: it stands behind accesses of its thread that are held or under way on a
link, so that accesses to one byte keep program order (R185, R190). -/
def touchesMemory (i : Instr) : Bool :=
  match i with
  | .ld .. => true
  | .lds .. => true
  | .st .. => true
  | .ldfe .. => true
  | .ldf .. => true
  | .stef .. => true
  | .stf .. => true
  | .flush .. => true
  | .gload .. => true
  | .amoAdd .. => true
  | .amoAnd .. => true
  | .amoOr .. => true
  | .amoXor .. => true
  | .amoMin .. => true
  | .amoMax .. => true
  | .amoMinu .. => true
  | .amoMaxu .. => true
  | .amoSwap .. => true
  | .amoFadd .. => true
  | .cas .. => true
  | .vld .. => true
  | .vst .. => true
  | .vlds .. => true
  | .vsts .. => true
  | .vgath .. => true
  | .vscat .. => true
  | .vstm .. => true
  | .vldm .. => true
  | .xclr .. => true
  | .xadd .. => true
  | .xmadd .. => true
  | .xrnd .. => true
  | .xmerge .. => true
  | .spawn .. => true
  | .recv .. => true
  | .recvn .. => true
  | .send .. => true
  | .sendn .. => true
  | .tstop .. => true
  | .tstart .. => true
  | .tread .. => true
  | .treadTab .. => true
  | .treadLog .. => true
  | .twrite .. => true
  | .twriteTab .. => true
  | .treap .. => true
  | .gate .. => true
  | .svc .. => true
  | .codemap .. => true
  | .codemapRel .. => true
  | .lddS .. => true
  | .stdS .. => true
  | .nest .. => true
  | .iter .. => true
  | _ => partRelease i

/-- An instruction that writes memory (R191). -/
def writes (i : Instr) : Bool :=
  match i with
  | .st .. => true
  | .ldfe .. => true
  | .stef .. => true
  | .stf .. => true
  | .amoAdd .. => true
  | .amoAnd .. => true
  | .amoOr .. => true
  | .amoXor .. => true
  | .amoMin .. => true
  | .amoMax .. => true
  | .amoMinu .. => true
  | .amoMaxu .. => true
  | .amoSwap .. => true
  | .amoFadd .. => true
  | .cas .. => true
  | .vst .. => true
  | .vsts .. => true
  | .vscat .. => true
  | .vstm .. => true
  | .xclr .. => true
  | .xadd .. => true
  | .xmadd .. => true
  | .xmerge .. => true
  | .stdS .. => true
  | .iter .. => true
  | .recv .. => true
  | .recvn .. => true
  | .tread .. => true
  | .treadTab .. => true
  | .treadLog .. => true
  | _ => false

/-- A suspension point (R18, R19). -/
def suspends : Instr → Bool
  | .sleep => true
  | .sleepT _ => true
  | .migrate _ => true
  | .yield => true
  | .endThread => true
  | .svc .. => true
  | .send .. => true
  | .sendn .. => true
  | _ => false

/-- An engine command and its flags (R208). -/
def engineFlags : Instr → Option EFlags
  | .mma x _ _ => some x
  | .mmag x _ _ => some x
  | .mzero x _ _ => some x
  | .mload x _ _ => some x
  | .mdrain x _ _ => some x
  | .dpload x _ _ _ => some x
  | .cpy x _ => some x
  | .cpys x _ => some x
  | .cpyg x _ => some x
  | .fill x _ => some x
  | _ => none

/-- A command for the matrix engine. -/
def forMatrix : Instr → Bool
  | .mma .. => true
  | .mmag .. => true
  | .mzero .. => true
  | .mload .. => true
  | .mdrain .. => true
  | .dpload .. => true
  | _ => false

/-- A queue that the current instruction needs a place in is full (R202, R232, R242, R270); a SENDN that answers 3 needs none. -/
def State.queueFull (s : State) (i : Instr) : Bool :=
  let k := s.cur.1
  let u := coreUnit k
  match i with
  | .gate .. => decide (32 ≤ (s.unit u).gates.length)
  | .sendn _ a =>
    let b := placed (s.core k).sendBuf
    s.sendable ((s.g a).setWidth 32) && decide (64 ≤ b.length) && !(b.all fun x => x.posted && x.msg.sender == s.tid)
  | _ => match engineFlags i with
    | none => false
    | some _ => if forMatrix i then !isDeep k && !(s.unit u).mqRoom else !s.outRoom u

/-- The order and scope of an instruction that is a release (R140, R191, R193). -/
def releaseOf (i : Instr) : Option (Order × Scope) :=
  match i with
  | .ld _ o c _ _ _ => some (o, c)
  | .lds _ o c _ _ _ => some (o, c)
  | .vld o c _ _ _ => some (o, c)
  | .ldfe o c _ _ _ => some (o, c)
  | .ldf o c _ _ _ => some (o, c)
  | .xclr r _ _ => if r then some (.rel, .part) else none
  | .xadd r _ _ _ => if r then some (.rel, .part) else none
  | .xmadd r _ _ _ _ => if r then some (.rel, .part) else none
  | .xmerge r _ _ => if r then some (.rel, .part) else none
  | .st _ o c _ _ _ => some (o, c)
  | .vst o c _ _ _ => some (o, c)
  | .stef o c _ _ _ => some (o, c)
  | .stf o c _ _ _ => some (o, c)
  | .amoAdd _ o c _ _ _ => some (o, c)
  | .amoAnd _ o c _ _ _ => some (o, c)
  | .amoOr _ o c _ _ _ => some (o, c)
  | .amoXor _ o c _ _ _ => some (o, c)
  | .amoMin _ o c _ _ _ => some (o, c)
  | .amoMax _ o c _ _ _ => some (o, c)
  | .amoMinu _ o c _ _ _ => some (o, c)
  | .amoMaxu _ o c _ _ _ => some (o, c)
  | .amoSwap _ o c _ _ _ => some (o, c)
  | .amoFadd _ o c _ _ _ => some (o, c)
  | .cas _ o c _ _ _ => some (o, c)
  | _ => if partRelease i then some (.rel, .part) else none

/-- The scope at which the issue of an engine command, or a GATE, is a release (R195, R242). -/
def State.issueScope (s : State) (i : Instr) : Option Scope :=
  match i with
  | .gate _ _ b => (EFlags.ofBits ((s.g b).extractLsb' 8 6)).map fun f => f.scope
  | _ => match engineFlags i with
    | some f => if f.acq || f.rel then some f.scope else none
    | none => none

/-- An XLINV that has removed its entries waits for its drain (R336). -/
def State.xlinvHeld (s : State) (x : Ctx) (all : Bool) : Bool :=
  let r := s.recOf x.tid
  match x.wait with
  | .drain n => !s.drained r.part (fun q => all || q == s.pasid r.part r.vf) n
  | _ => s.writesOut r.part .part

/-- What the next instruction of a context waits for (R254), its registers apart. A YIELD, SEND, SENDN or SVC waits for g1-g4
before it is known whether it suspends (R19; log 89). -/
def State.stalled (s : State) (k c : Nat) (i : Instr) : Bool :=
  let x := s.ctx k c
  let s' := { s with cur := (k, c) }
  let p := (s.recOf x.tid).part
  let order := match i with
    | .fence o c => s'.fenceHeld o c
    | .xlinv .. => s.xlinvHeld x false
    | .xlinvVf _ => s.xlinvHeld x false
    | .xlinvAll _ => s.xlinvHeld x true
    | .codemap .. => (s.part p).scan.isSome || s'.relHeld .rel .part
    | _ => match s'.issueScope i with
      | some c => s'.relHeld .rel c
      | none => match releaseOf i with
        | some (o, c) => s'.relHeld o c
        | none => false
  let fenced := writes i && x.fence.any fun c => s.writesOut p c
  order || fenced || ((touchesMemory i || (engineFlags i).isSome) && x.inflight.any Producer.unfixed) ||
    (suspends i && !x.carryFull) || s'.queueFull i || s.postHeld k c

/-- A waiting context has become free to go on: an ACCRD's tile (R216), a ONCE elected after its core left, with no post
held for it (R118), a TSTOP's target past its SEND or grain change (R308). -/
def State.waitOver (s : State) (k c : Nat) : Bool :=
  let x := s.ctx k c
  match x.wait with
  | .none_ => true
  | .tile t => !(s.unit (coreUnit k)).accBlocked t
  | .oncePost => decide (s.onceElected k c = k) && !x.holdsPost
  | .homeQ =>
    let me := s.homeWho (.ctx k c)
    !(s.bulks.any fun b => b.2.homeQ.any fun r =>
      some r.who == me && !r.served && (s.homeBusy r.lo (r.hi - r.lo) || s.homeAhead b.1 r.lo r.hi me))
  | .target a b => (s.ctx a b).wait != .answer && (s.ctx a b).wait != .grain
  | .drain _ => true
  | _ => false

/-- The L1 instruction lines of a fetch of n bytes at a context's PC. -/
def State.fetchLines (s : State) (k c n : Nat) : List Nat :=
  let x := s.ctx k c
  let r := s.recOf x.tid
  match (s.part r.part).rangeOf (s.pasid r.part r.vf) x.pc.toNat with
  | none => []
  | some g => [g.key x.pc.toNat / 64, g.key (x.pc.toNat + n - 1) / 64].eraseDups
/-- Lines of an L1 instruction cache: 32 KiB, on a deep core 64 KiB (R141). -/
def l1iSize (k : Nat) : Nat := if isDeep k then 1024 else 512
/-- One line fetched: a miss is counted (R372) and fills; with the cache full, the device chooses the victim (log 11). -/
def State.fetchLine (s : State) (k c line : Nat) : State :=
  let l := (s.core k).l1i
  if fget false l line then s
  else
    let s := s.count k 7 (some c) 1
    if l.length < l1iSize k then s.modCore k fun x => { x with l1i := fset false x.l1i line true }
    else
      let n := Config.freeNat s.free % l.length
      { s.modCore k fun x => { x with l1i := fset false (x.l1i.eraseIdx n) line true } with free := s.free + 1 }

end Sys2Proof.Machine
end

