-- ==== Sys2Proof/Machine/Cycle.lean ====
section
/-! DEFINITION. Core cycles and turns: barrel issue (R66, R254), deep-core issue (R410), and what one turn of the agenda
does (log 1). -/

namespace Sys2Proof.Machine

/-- Nothing of its own keeps a context of a core from issuing (R254): it waits for nothing, no cool-down runs, its cluster is
not gated (R406), no gang switch has reached it (R285). -/
def State.able (s : State) (k c : Nat) : Bool :=
  let x := s.ctx k c
  x.bound && x.stop.isNone && x.susp.isNone && decide (x.readyAt ≤ (s.core k).cycle) && s.waitOver k c &&
    !(s.unit (coreUnit k)).gated && !s.pastSwitch k c

/-- The deep cycle before which an instruction waits for a long result that it reads (R99). -/
def State.resultsAt (s : State) (k c : Nat) (i : Instr) : Nat :=
  ((s.ctx k c).results.filter fun r => (gReads i).contains r.1).foldl (fun t r => max t r.2) 0

/-- A context is ready (R254). -/
def State.ready (s : State) (k c : Nat) : Bool :=
  s.able k c &&
  match s.fetch k c with
  | .instr i _ => (s.ctx k c).regsFull i && decide (s.resultsAt k c i ≤ (s.core k).cycle) && !s.stalled k c i
  | _ => true

/-- Its next instruction reads or writes an empty register (R64; performance event 5). -/
def State.emptyReg (s : State) (k c : Nat) : Bool :=
  s.able k c &&
  match s.fetch k c with
  | .instr i _ => !(s.ctx k c).regsFull i
  | _ => false

/-- What issuing an instruction of n bytes does before its own effect: its lines are fetched, the rotation stands at its
context, a bank conflict keeps the core busy (R66), and the issue is counted. -/
def State.issuing (s : State) (k c : Nat) (i : Instr) (n : Nat) : State :=
  let now := (s.core k).cycle
  let x := if isDeep k then 0 else bankX i
  let s := { s with cur := (k, c) }
  let s := (s.fetchLines k c n).foldl (fun s l => s.fetchLine k c l) s
  let s := s.modCore k fun y => { y with rot := c, busy := x }
  (s.modCtx k c fun y => { y with
    last := some now, fence := if writes i then none else y.fence, results := y.results.filter fun r => decide (now < r.2 ∧ gOnlyWrites i ≠ some r.1) }).count k 2 (some c) 1

/-- A fetch of the current context faults (R38): the PC recorded is the address fetched; a ONCE pair resumes as a pair (log 37). -/
def State.fetchFault (s : State) (code : Nat) : State :=
  let x := s.cc
  let n := x.retired + 1
  s.beginStop s.cur.1 s.cur.2
    { code := some code, pc := x.pc, resume := x.stopPc, addr := x.pc, detail := 0#64, late := false, seq := n, rseq := n,
      callers := [] }

/-- What follows in a next state. -/
def Out.then_ (o : Out) (f : State → State) : Out :=
  match o with
  | .next s => .next (f s)
  | x => x
/-- A context issues: fetch faults take effect before the instruction (R38); bank conflicts cost cycles (R66). -/
def State.issueAt (s : State) (k c : Nat) : Out :=
  match s.fetch k c with
  | .fault code => .next ({ s with cur := (k, c) }.fetchFault code)
  | .bad => .refused .undecodable
  | .instr i n => exec i (s.issuing k c i n)

/-- The contexts of a core in the order the rotation searches them (R254, R410). -/
def rotation (k rot : Nat) : List Nat :=
  let n := if isDeep k then 4 else 16
  (List.range n).map fun j => (rot + 1 + j) % n

/-- A barrel context issued last at least 8 core cycles earlier; a deep core has no such spacing (R254, R410). -/
def State.spaced (s : State) (k c : Nat) : Bool :=
  isDeep k || match (s.ctx k c).last with
    | none => true
    | some l => decide (l + 8 ≤ (s.core k).cycle)

/-- Contexts the search passes over because a register is empty (performance event 5). -/
def State.countSkips (s : State) (k : Nat) : List Nat → State
  | [] => s
  | c :: l =>
    if s.ready k c && s.spaced k c then s
    else State.countSkips (if s.emptyReg k c && s.spaced k c then s.count k 5 (some c) 1 else s) k l

/-- The context that a core issues from in its present cycle: the first of the rotation that is ready and spaced (R254, R410). -/
def State.pick (s : State) (k : Nat) : Option Nat :=
  (rotation k (s.core k).rot).find? fun c => s.ready k c && s.spaced k c
/-- One core cycle of a core. TS is sampled after what retires in it (R285); a PCRD in it reads what the counters held before it
(R373). -/
def State.coreCycle (s : State) (k : Nat) : Out :=
  let s := (s.modCore k fun y => { y with cycle := y.cycle + 1, perfWas := y.perf }).count k 1 none 1
  let now := s.ts
  let sampled (s : State) : State := s.sampleTs k now
  if (s.core k).busy ≠ 0 then
    .next (sampled (((s.modCore k fun y => { y with busy := y.busy - 1 }).count k 3 none 1).count k 4 none 1))
  else
    let s := if (s.core k).perf.isEmpty then s else s.countSkips k (rotation k (s.core k).rot)
    match s.pick k with
    | none => .next (sampled (s.count k 4 none 1))
    | some c => (s.issueAt k c).then_ sampled

/-- The first core cycle from the next on in which a context may issue: its cool-down, what it reads of long results, the barrel
spacing and the core's bank conflict over. -/
def State.issueCycle (s : State) (k c : Nat) : Nat :=
  let x := s.ctx k c
  let y := s.core k
  let result := match s.fetch k c with | .instr i _ => s.resultsAt k c i | _ => 0
  let last := match x.last with | none => 0 | some l => if isDeep k then 0 else l + 8
  max (max (y.cycle + y.busy + 1) result) (max x.readyAt last)
/-- The cycles before t in which the search of an idle core passes over a context because a register is empty (performance event 5). -/
def State.idleSkips (s : State) (k t c : Nat) : Nat :=
  let y := s.core k
  let x := s.ctx k c
  let last := match x.last with | none => 0 | some l => if isDeep k then 0 else l + 8
  if (s.modCore k fun y => { y with cycle := t }).emptyReg k c then t - max (y.cycle + y.busy + 1) (max x.readyAt last) else 0
/-- A core just before cycle t, with nothing issued since: its idle cycles are counted (R371). -/
def State.idleTo (s : State) (k t : Nat) : State :=
  let y := s.core k
  let n := t - 1 - y.cycle
  let s := if y.perf.isEmpty then s else (List.range 16).foldl (fun (s : State) c => s.count k 5 (some c) (s.idleSkips k t c)) s
  (((s.modCore k fun y => { y with cycle := t - 1, busy := 0 }).count k 1 none n).count k 3 none y.busy).count k 4 none n
/-- The first core cycle in which some context of a core may issue, if nothing else happens. -/
def State.nextIssue (s : State) (k : Nat) : Option Nat :=
  let may (c : Nat) : Option Nat :=
    let t := s.issueCycle k c
    if (s.modCore k fun y => { y with cycle := t }).ready k c then some t else none
  ((rotation k (s.core k).rot).filterMap may).min?
/-- A producer of context x whose value, or whose fault, may arrive (R63, R318; of a RECV or TREAD R274, R310). -/
def State.comes (s : State) (x : Ctx) (p : Producer) : Bool :=
  match p.st with
  | .valueG _ => !(p.op == .done_ && s.writesOut (s.recOf x.tid).part .part)
  | .valueV _ => true
  | .fault _ _ _ => true
  | _ => false
/-- The first producer of a core that may arrive: its context and number. -/
def State.nextResult (s : State) (k : Nat) : Option (Nat × Nat) :=
  (s.core k).ctxs.findSome? fun x => (x.2.inflight.findIdx? (s.comes x.2)).map fun n => (x.1, n)
/-- It arrives: as a late fault where younger instructions have retired (R318). -/
def State.resultTurn (s : State) (k c n : Nat) : Out :=
  let x := s.ctx k c
  match x.prod n with
  | some { st := .fault _ _ _, seq := q, .. } => if q < x.retired then execLateFault k c n s else execLongLatencyResult k c n s
  | _ => execLongLatencyResult k c n s
/-- The first context of a core whose suspension point may take effect (R19). -/
def State.nextSuspension (s : State) (k : Nat) : Option Nat :=
  ((s.core k).ctxs.find? fun x => x.2.susp.isSome && x.2.stop.isNone && s.suspReady k x.1).map fun x => x.1
/-- With nothing in the agenda the core of the current context goes on to its next issue. If no context of it can issue, a result
on its way to it arrives, or a suspension point of it takes effect; else a tick passes (log 1). -/
def State.idleTurn (s : State) : Out :=
  let k := s.cur.1
  match s.nextIssue k, s.nextResult k, s.nextSuspension k with
  | some t, _, _ => (s.idleTo k t).coreCycle k
  | none, some (c, n), _ => s.resultTurn k c n
  | none, none, some c => execSuspensionComplete k c s
  | none, none, none => .next { s with ts := s.ts + 1 }

/-- An access from outside, at its home (R151). -/
def execOutside (r : OutReq) (s : State) : Out :=
  match r with
  | .coherence core addr k => execCoherenceRequest core addr k s
  | .host port pa r => execHostMemoryRequest port pa r s
  | .hostAtomic port pa op dbl x y => execHostAtomicop port pa op dbl x y s
  | .cross imp exp dpa r => execCrossBulkheadAccess imp exp dpa r s
  | .remote port pkg part p dpa r => execRemoteInboundAccess port pkg part p dpa r s
  | .doorbell port vf q x => execDoorbellWrite port vf q x s
/-- It waits for a way of the L2 to hold its host bit (R352). -/
def State.waitsWay (s : State) (r : HomeReq) : Bool :=
  match r.who with
  | .outside (.host _ _ (.read _ true)) => (s.hcFull r.lo (r.hi - r.lo)).isSome
  | _ => false
/-- The first access from outside whose turn has come in a home queue: its bulkhead and its place there (R151). -/
def State.homeDue (s : State) : Option (Nat × Nat × OutReq) :=
  let due (l : List HomeReq) (q : HomeReq) : Bool :=
    !(s.homeBusy q.lo (q.hi - q.lo)) && !s.waitsWay q && !(l.any fun x => !x.served && decide (x.lo < q.hi) && decide (q.lo < x.hi) && s.homeLive x.who)
  s.bulks.findSome? fun b => (List.range b.2.homeQ.length).findSome? fun n => b.2.homeQ[n]?.bind fun q => match q.who with
    | .outside r => if due (b.2.homeQ.take n) q then some (b.1, n, r) else none
    | _ => none
/-- It is served, or takes its place again. -/
def State.homeTurn (s : State) (b n : Nat) (r : OutReq) : Out :=
  let f (q : HomeReq) : HomeReq := { q with sent := true }
  (execOutside r (s.modBulk b fun x => { x with homeQ := x.homeQ.modify n f })).then_ fun s =>
    s.modBulk b fun x => { x with homeQ := x.homeQ.filter fun q => !q.sent }

/-- One turn (log 1). An event whose agents do not exist (R2) is none. -/
def State.turn (s : State) (t : Turn) : Out :=
  match t with
  | .tick n => .next { s with ts := s.ts + n }
  | .cycle k => s.coreCycle k
  | .event i => if i.isEvent && i.wf then exec i s else .next s

end Sys2Proof.Machine
end

