-- ==== Sys2Proof/Machine/Step.lean ====
section
/-! DEFINITION. One step of the machine: the next turn of the agenda (log 1), and where the host places an instruction so
that the next step runs it (log 2). -/

namespace Sys2Proof.Machine

/-- One step: an access that has waited at its home and whose turn has come there (R151), else the next turn. -/
def step (s : State) : Host.Outcome State Fault Refusal :=
  match s.homeDue with
  | some (b, n, r) => s.homeTurn b n r
  | none => match s.agenda with
    | [] => s.idleTurn
    | t :: rest => ({ s with agenda := rest }).turn t

/-- Partition 0 as bulkhead 0 alone, running, with VF 0 enabled under PASID 0, a code range of 64 KiB at address 0 held in
its first page with its bitmap in the second, and a thread bound to context 1 of core 0 with its PC at 0: what a load of
a program gives (log 2). -/
def State.withProgram (s : State) : State :=
  let tid := mkTid 0 1 0#8
  let s := ((s.pfSet (partBase 0) 1#64).pfSet (partBase 0 + 0x10) 1#64).pfSet (vfOff 0 0) 3#64
  let s := s.modPart 0 fun p =>
    { p with
      bulks := [0], running := some 0,
      ranges := [{ base := 0, len := 65536, bitmap := 65536, pasid := 0, boot := true, pages := [0], bmPages := [1] }] }
  let s := s.setSlot 0 1 { Rec.empty with tid := tid, state := .bound, table := 1#10, place := some (0, 1) }
  { s.modCtx 0 1 fun _ => { Ctx.empty with bound := true, tid := tid } with cur := (0, 1), agenda := [] }

/-- The rotation of the current core comes to its current context next. -/
def State.turnTo (s : State) : State :=
  s.modCore s.cur.1 fun y => { y with rot := if isDeep s.cur.1 then (s.cur.2 + 3) % 4 else (s.cur.2 + 15) % 16 }

/-- Where the current context fetches: its range's key of the PC, if it may issue and the address is in a range. -/
def State.fetchKey (s : State) : Option (CodeRange × Nat) :=
  let x := s.cc
  let r := s.me
  if x.bound && x.stop.isNone && x.susp.isNone && x.wait == .none_ then
    ((s.part r.part).rangeOf (s.pasid r.part r.vf) x.pc.toNat).map fun g => (g, g.key x.pc.toNat)
  else none

/-- The instruction with these bits placed where the next step fetches. -/
def State.withFetchWord (s : State) (_nbits w : Nat) : State :=
  let s := if s.fetchKey.isSome then { s with agenda := [] } else s.withProgram
  match s.fetchKey with
  | none => s
  | some (g, k) =>
    let i := (s.pc.toNat - g.base) / 2
    let b := g.bmKey i
    s.turnTo.modMem fun m => (m.setBytes k (leBytes 4 w)).setByte b (m.byte b &&& ~~~(BitVec.ofNat 8 (2 ^ (i % 8))))

end Sys2Proof.Machine
end

