-- ==== Sys2Proof/Safety.lean ====
section
/-! DEFINITION. The terms in which claims are stated: what a safe run means, what "nothing else changes" means, and what it
means that an instruction completes. -/

namespace Sys2Proof.Machine

/-- A step answers a next state. -/
def State.goes (s : State) : Prop := ∃ t, step s = .next t

/-- Memory is in its canonical form. -/
abbrev State.memOk (s : State) : Prop := s.mem.wf = true

/-- Nothing outside the current context changes from s to t, but for ONCE posts to its cluster (R116), which only a pair of
ONCE sends. -/
structure OnlyCur (s t : State) : Prop where
  rest : t = { s with cores := t.cores, units := t.units }
  units : ∀ u, t.unit u = { s.unit u with posts := (t.unit u).posts }
  noPost : s.cc.onceQ = none → t.units = s.units
  cores : ∀ k, k ≠ s.cur.1 → t.core k = s.core k
  own : t.core s.cur.1 = { s.core s.cur.1 with ctxs := (t.core s.cur.1).ctxs }
  ctxs : ∀ c, c ≠ s.cur.2 → t.ctx s.cur.1 c = s.ctx s.cur.1 c

/-- The current context after an instruction of n bytes that changes its registers by f: the PC after the instruction, and
the marks of an instruction in progress taken away. -/
def State.after (s : State) (n : Nat) (f : Regs → Regs) : Ctx :=
  { s.cc.retire (s.pc + BitVec.ofNat 64 n) with regs := f s.cc.regs }

/-- The instruction completes, and x is all it leaves: the current context, with nothing else changed. -/
def Does (i : Instr) (s : State) (x : Ctx) : Prop := ∃ t, exec i s = .next t ∧ OnlyCur s t ∧ t.cc = x

/-- The instruction of n bytes completes by writing w to g(d), and does nothing else. -/
def WritesG (i : Instr) (s : State) (n : Nat) (d : GReg) (w : Word) : Prop := Does i s (s.after n fun r => r.setG d.toNat w)
/-- The word completes by writing x to v(d), and does nothing else. -/
def WritesV (i : Instr) (s : State) (d : VReg) (x : Vec) : Prop := Does i s (s.after 4 fun r => r.setV d.toNat x)

/-- Registers, with the conditions c recorded in env (R174). -/
def Regs.noted (r : Regs) (c : Cond) : Regs := { r with env := r.env ||| c.bits }

/-- x kept out of the rotation for n core cycles (R99, R121). -/
def State.heldFor (s : State) (n : Nat) (x : Ctx) : Ctx := { x with readyAt := (s.core s.cur.1).cycle + n }

/-- x after a long scalar instruction with its result in g(d): kept out of the rotation for n core cycles; on a deep core only
the instructions that read the result wait (R99). -/
def State.longFor (s : State) (d : GReg) (n : Nat) (x : Ctx) : Ctx :=
  if isDeep s.cur.1 then
    { x with results := if d = 0#5 then x.results else (d.toNat, (s.core s.cur.1).cycle + n) :: x.results }
  else s.heldFor n x

/-- The elements of n bits of a vector register are f 0, f 1, … (R81). -/
def Lanes (n : Nat) (x : Vec) (f : Nat → Nat) : Prop := ∀ i, i < 512 / n → elem n x i = f i % 2 ^ n

/-- The word completes by writing a vector register whose elements of n bits are the first parts of r 0, r 1, …, and by
recording the conditions of all of them (R122); with `cool` its context is then held for so many core cycles (R121). -/
def DoesLanes (i : Instr) (s : State) (d : VReg) (n : Nat) (cool : Option Nat) (r : Nat → Nat × Cond) : Prop :=
  ∃ x : Vec, Lanes n x (fun j => (r j).1) ∧
    let c := s.after 4 fun q => (q.noted (Cond.all ((List.range (512 / n)).map fun j => (r j).2))).setV d.toNat x
    Does i s (match cool with | none => c | some k => s.heldFor k c)

/-- What an instruction leaves alone that reaches memory: every byte and full/empty bit, the PF registers, every thread
record, every register of every other context, tiles and Wellheads. -/
structure Quiet (s t : State) : Prop where
  bytes : ∀ a, t.mem.byte a = s.mem.byte a
  full : ∀ a, t.mem.full a = s.mem.full a
  pf : t.pf = s.pf
  cur : t.cur = s.cur
  recs : ∀ x, t.findRec x = s.findRec x
  ctxs : ∀ k c, (k, c) ≠ s.cur → t.ctx k c = s.ctx k c
  tiles : ∀ u, (t.unit u).tiles = (s.unit u).tiles ∧ (t.unit u).wellhead = (s.unit u).wellhead

/-- A store of these bytes at key k: they are what memory then holds there, and every other byte, every full/empty bit, the
PF registers, the registers of every context, tiles and Wellheads are as before. (Writes wake watchers and parked contexts, so
records and waits may change.) -/
structure Stored (s t : State) (k : Nat) (bs : List Byte) : Prop where
  inside : t.mem.bytes k bs.length = bs
  outside : ∀ a, a < k ∨ k + bs.length ≤ a → t.mem.byte a = s.mem.byte a
  full : ∀ a, t.mem.full a = s.mem.full a
  pf : t.pf = s.pf
  cur : t.cur = s.cur
  ctxs : ∀ k c, (k, c) ≠ s.cur → (t.ctx k c).regs = (s.ctx k c).regs ∧ (t.ctx k c).pc = (s.ctx k c).pc
  tiles : ∀ u, (t.unit u).tiles = (s.unit u).tiles ∧ (t.unit u).wellhead = (s.unit u).wellhead

/-- The word of n bytes has retired with the registers f gives, and nothing waits: the PC is past it. -/
def Retired (s t : State) (n : Nat) (f : Regs → Regs) : Prop :=
  t.cc.regs = f s.cc.regs ∧ t.cc.pc = s.pc + BitVec.ofNat 64 n ∧ t.cc.retired = s.cc.retired + 1

/-- The word completes with the 64-byte block at k holding the basin n, and nothing else changed (R93, R138). -/
def State.basinBecomes (s : State) (i : Instr) (k : Nat) (n : Basin) : Prop :=
  ∃ t bs, exec i s = .next t ∧ bs.length = 64 ∧ Stored s t k bs ∧ Retired s t 4 (fun r => r) ∧ Basin.ofMem t.mem k = n

/-- A long-latency result (R63): it is written at once, or the destination is marked empty and the value is on its way. -/
def Lands (s t : State) (n : Nat) (d : Dest) (st : ProdState) : Prop :=
  t.cc.pc = s.pc + BitVec.ofNat 64 n ∧ t.cc.retired = s.cc.retired + 1 ∧
  ((t.cc.regs = (s.cc.deliver d st).regs ∧ t.cc.inflight = s.cc.inflight) ∨
   (t.cc.regs = s.cc.regs ∧ (t.cc.gEmpty, t.cc.vEmpty) = ((s.cc.mark true d).gEmpty, (s.cc.mark true d).vEmpty) ∧
    ∃ p : Producer, p.dest = d ∧ p.st = st ∧ p.seq = s.cc.retired + 1 ∧ t.cc.inflight = s.cc.inflight ++ [p]))

/-- An SC operation may be performed: its window has closed, or it is none (R193). -/
abbrev State.scOk (s : State) (o : Order) : Prop := o = .sc → s.cc.scOpen = true

/-- The checks of R160 pass for an access by the current thread, which leads to this place. -/
abbrev State.reaches (s : State) (g : Agent) (a : Acc) (va : Word) (pl : Place) : Prop := (s.access g a va).1 = .ok pl
/-- The agent of a long-latency producer of the current context. -/
def State.prodAg (s : State) : Agent := { s.ag with holder := .prod s.cur.1 s.cur.2 s.cc.stopPc }

/-- A store by the current thread at this place takes effect now: it is in memory on the device, or its link is up. -/
def State.leavesNow (s : State) (pl : Place) : Bool :=
  match pl with
  | .grain _ => false
  | .window _ _ => true
  | .mem k => !isHostKey k || (s.portOf s.me.part).isSome
  | .remote _ _ => (s.exitPort s.me.part pl true).isSome

/-- What an instruction leaves alone that acts on records, tables and queues: memory with its full/empty bits, the PF
registers, the registers and PC of every other context, tiles and Wellheads. -/
structure Calm (s t : State) : Prop where
  bytes : ∀ a, t.mem.byte a = s.mem.byte a
  full : ∀ a, t.mem.full a = s.mem.full a
  pf : t.pf = s.pf
  cur : t.cur = s.cur
  ctxs : ∀ k c, (k, c) ≠ s.cur → (t.ctx k c).regs = (s.ctx k c).regs ∧ (t.ctx k c).pc = (s.ctx k c).pc
  tiles : ∀ u, (t.unit u).tiles = (s.unit u).tiles ∧ (t.unit u).wellhead = (s.unit u).wellhead

/-- The word completes with w in g(d), and Calm holds; P says what else t holds. -/
def Answers (i : Instr) (s : State) (d : GReg) (w : Word) (P : State → Prop) : Prop :=
  ∃ t, exec i s = .next t ∧ Calm s t ∧ (Retired s t 4 fun r => r.setG d.toNat w) ∧ P t

/-- Nothing outside the current context and the units of u changes, but for ONCE posts; u is changed by f. -/
structure OnlyUnit (s t : State) (u : Nat) (f : Clus → Clus) : Prop where
  rest : t = { s with cores := t.cores, units := t.units }
  unit : t.unit u = { f (s.unit u) with posts := (t.unit u).posts }
  units : ∀ v, v ≠ u → t.unit v = { s.unit v with posts := (t.unit v).posts }
  cores : ∀ k, k ≠ s.cur.1 → t.core k = s.core k
  own : t.core s.cur.1 = { s.core s.cur.1 with ctxs := (t.core s.cur.1).ctxs }
  ctxs : ∀ c, c ≠ s.cur.2 → t.ctx s.cur.1 c = s.ctx s.cur.1 c

/-- The word completes with w in g(d) and the units of u changed by f, and does nothing else. -/
def Queues (i : Instr) (s : State) (d : GReg) (w : Word) (u : Nat) (f : Clus → Clus) : Prop :=
  ∃ t, exec i s = .next t ∧ OnlyUnit s t u f ∧ t.cc = s.after 4 fun r => r.setG d.toNat w

/-- Memory with its full/empty bits, and the PF registers, are as before; the current context is the same one. -/
structure Still (s t : State) : Prop where
  bytes : ∀ a, t.mem.byte a = s.mem.byte a
  full : ∀ a, t.mem.full a = s.mem.full a
  pf : t.pf = s.pf
  cur : t.cur = s.cur

/-- The instruction or event completes with memory as before; P says what it does. -/
def Acts (i : Instr) (s : State) (P : State → Prop) : Prop := ∃ t, exec i s = .next t ∧ Still s t ∧ P t

/-- The event completes with memory and its full/empty bits as before; P says what it does, in PF registers too. -/
def Acts' (i : Instr) (s : State) (P : State → Prop) : Prop :=
  ∃ t, exec i s = .next t ∧ (∀ a, t.mem.byte a = s.mem.byte a) ∧ (∀ a, t.mem.full a = s.mem.full a) ∧ t.cur = s.cur ∧ P t

/-- Every byte outside the n bytes at k, every full/empty bit and the PF registers are as before. -/
def State.keptBut (s t : State) (k n : Nat) : Prop :=
  (∀ a, a < k ∨ k + n ≤ a → t.mem.byte a = s.mem.byte a) ∧ (∀ a, t.mem.full a = s.mem.full a) ∧ t.pf = s.pf

/-- Nothing keeps a request for n bytes at a device key waiting at its home (R148, R151, R352): no grain change of its page, no
back-invalidation, no earlier request for its units. -/
def State.homeOpen (s : State) (k n : Nat) : Prop :=
  s.homeBusy k n = false ∧ s.homeAhead (keyBulk k) (s.unitsLo k) (s.unitsHi k n) none = false
/-- And the host holds no copy of its lines (R352). -/
def State.homeFree (s : State) (k n : Nat) : Prop := s.homeOpen k n ∧ s.hcLines k n = []

/-- The instructions that can be SC operations (R193). -/
def scForm : Instr → Bool
  | .ld .. => true
  | .lds .. => true
  | .st .. => true
  | .ldfe .. => true
  | .ldf .. => true
  | .stef .. => true
  | .stf .. => true
  | .vld .. => true
  | .vst .. => true
  | .amoAdd .. => true
  | .amoAnd .. => true
  | .amoOr .. => true
  | .amoXor .. => true
  | .amoMin .. => true
  | .amoMax .. => true
  | .amoMinu .. => true
  | .amoMaxu .. => true
  | .amoSwap .. => true
  | .amoFadd .. => true
  | .cas .. => true
  | _ => false

end Sys2Proof.Machine
end

