-- ==== Sys2Proof/Certificates/Slice0/Obligations.lean ====
section
/-! DEFINITION. The statements about the model, for the provers. Each docstring names the rules of spec/ it formalises. -/

open Sys2Proof Sys2Proof.Machine

/-- Two-operand and one-operand integer instructions (R98, R100): each completes in every state and writes its result to g(d),
with g(d) read before it is written, PC + 4, and nothing else changed. -/
def Obligations.IntegerRegisterResults : Prop :=
  ∀ (s : State) (d a b : GReg),
    WritesG (.add d a b) s 4 d (s.g a + s.g b) ∧
    WritesG (.sub d a b) s 4 d (s.g a - s.g b) ∧
    WritesG (.and d a b) s 4 d (s.g a &&& s.g b) ∧
    WritesG (.or d a b) s 4 d (s.g a ||| s.g b) ∧
    WritesG (.xor d a b) s 4 d (s.g a ^^^ s.g b) ∧
    WritesG (.shl d a b) s 4 d (s.g a <<< ((s.g b).toNat % 64)) ∧
    WritesG (.shr d a b) s 4 d (s.g a >>> ((s.g b).toNat % 64)) ∧
    WritesG (.sra d a b) s 4 d ((s.g a).sshiftRight ((s.g b).toNat % 64)) ∧
    WritesG (.rot d a b) s 4 d ((s.g a).rotateLeft ((s.g b).toNat % 64)) ∧
    WritesG (.min d a b) s 4 d (if (s.g a).toInt < (s.g b).toInt then s.g a else s.g b) ∧
    WritesG (.max d a b) s 4 d (if (s.g a).toInt < (s.g b).toInt then s.g b else s.g a) ∧
    WritesG (.minu d a b) s 4 d (if (s.g a).toNat < (s.g b).toNat then s.g a else s.g b) ∧
    WritesG (.maxu d a b) s 4 d (if (s.g a).toNat < (s.g b).toNat then s.g b else s.g a) ∧
    WritesG (.sel d a b) s 4 d (if s.g d ≠ 0#64 then s.g a else s.g b) ∧
    WritesG (.slt d a b) s 4 d (if (s.g a).toInt < (s.g b).toInt then 1#64 else 0#64) ∧
    WritesG (.sltu d a b) s 4 d (if (s.g a).toNat < (s.g b).toNat then 1#64 else 0#64) ∧
    WritesG (.seq d a b) s 4 d (if s.g a = s.g b then 1#64 else 0#64) ∧
    WritesG (.sne d a b) s 4 d (if s.g a = s.g b then 0#64 else 1#64) ∧
    WritesG (.mul d a b) s 4 d (BitVec.ofInt 64 ((s.g a).toInt * (s.g b).toInt)) ∧
    WritesG (.mulh d a b) s 4 d (BitVec.ofInt 64 ((s.g a).toInt * (s.g b).toInt / 2 ^ 64)) ∧
    WritesG (.mulhu d a b) s 4 d (BitVec.ofNat 64 ((s.g a).toNat * (s.g b).toNat / 2 ^ 64)) ∧
    WritesG (.sext .b d a) s 4 d (((s.g a).setWidth 8).signExtend 64) ∧
    WritesG (.sext .h d a) s 4 d (((s.g a).setWidth 16).signExtend 64) ∧
    WritesG (.sext .w d a) s 4 d (((s.g a).setWidth 32).signExtend 64) ∧
    WritesG (.zext .b d a) s 4 d (s.g a &&& 0xff#64) ∧
    WritesG (.zext .h d a) s 4 d (s.g a &&& 0xffff#64) ∧
    WritesG (.zext .w d a) s 4 d (s.g a &&& 0xffffffff#64)

/-- R101: division by zero and signed overflow give the table's results, raise no fault and set no flag. -/
def Obligations.DivisionCorners : Prop :=
  ∀ (s : State) (d a b : GReg),
    let held (w : Word) : Ctx := s.longFor d 32 (s.after 4 fun r => r.setG d.toNat w)
    (s.g b = 0#64 →
      Does (.div d a b) s (held 0xffffffffffffffff#64) ∧ Does (.divu d a b) s (held 0xffffffffffffffff#64) ∧
      Does (.rem d a b) s (held (s.g a)) ∧ Does (.remu d a b) s (held (s.g a))) ∧
    ((s.g a).toInt = -2 ^ 63 → (s.g b).toInt = -1 →
      Does (.div d a b) s (held (s.g a)) ∧ Does (.rem d a b) s (held 0#64))

/-- Register laws (R61): g0 reads zero and a write of it is dropped; any other g register holds what was last written, and a
write of one register leaves every other as it was. Extension and index registers, the clock and the thread's own facts (R72,
R111-R113), and env (R175): each instruction completes, and nothing but the named register changes. Scalar floating point
(R99, R103, R174) completes in every state and changes nothing but g(d), the condition bits of env, and the time of the next
issue. -/
def Obligations.RegisterMoves : Prop :=
  (∀ (r : Regs) (d n : Nat) (x : Word) (y : Vec),
     r.getG 0 = 0#64 ∧ r.setG 0 x = r ∧
     (d ≠ 0 → (r.setG d x).getG d = x) ∧ (n ≠ d → (r.setG d x).getG n = r.getG n) ∧
     (r.setV d y).getV d = y ∧ (n ≠ d → (r.setV d y).getV n = r.getV n) ∧
     (r.setE d x).getE d = x ∧ (n ≠ d → (r.setE d x).getE n = r.getE n) ∧
     (r.setI d x).getI d = x ∧ (n ≠ d → (r.setI d x).getI n = r.getI n) ∧
     (r.setV d y).getG n = r.getG n ∧ (r.setG d x).getV n = r.getV n ∧ (r.setE d x).getG n = r.getG n ∧
     (r.setG d x).getE n = r.getE n ∧ (r.setE d x).getI n = r.getI n ∧ (r.setG d x).env = r.env) ∧
  ∀ (s : State) (d a : GReg) (n : BitVec 5),
    Does (.sete .e n a) s (s.after 4 fun r => r.setE n.toNat (s.g a)) ∧
    Does (.sete .i n a) s (s.after 4 fun r => r.setI n.toNat (s.g a)) ∧
    WritesG (.gete .e d n) s 4 d (s.e n.toNat) ∧
    WritesG (.gete .i d n) s 4 d (s.cc.regs.getI n.toNat) ∧
    WritesG (.rdts d) s 4 d (BitVec.ofNat 64 (s.tsOf s.me.part)) ∧
    WritesG (.rdid .id d) s 4 d (s.tid.setWidth 64) ∧
    (∃ x : Word, WritesG (.rdid .place d) s 4 d x ∧
      bitsOf x 0 16 = (if isDeep s.cur.1 then 0xffff else (s.part s.me.part).flatCore s.cur.1 % 2 ^ 16) ∧
      bitsOf x 16 16 = (if isDeep s.cur.1 then 0xffff else (s.part s.me.part).flatCl (coreUnit s.cur.1) % 2 ^ 16) ∧
      bitsOf x 32 8 = s.cur.2 % 16 ∧ bitsOf x 40 23 = coreBulk s.cur.1 % 64 ∧ x.getLsbD 63 = isDeep s.cur.1) ∧
    (∃ x : Word, WritesG (.rdid .part d) s 4 d x ∧
      bitsOf x 0 8 = s.me.vf % 256 ∧ bitsOf x 8 8 = s.me.part % 64 ∧ bitsOf x 16 16 = (s.part s.me.part).n % 64 ∧
      bitsOf x 32 32 = s.me.table.toNat) ∧
    WritesG (.feget d) s 4 d s.cc.regs.env ∧
    Does (.feset a) s (s.after 4 fun r => { r with env := s.g a &&& 0x11f#64 }) ∧
    ∀ (p : Prec) (rm : Rm) (k : CvtKind) (b : GReg),
      let x (w : Word) (c : Cond) : Ctx := s.after 4 fun r => (r.noted c).setG d.toNat w
      let only (i : Instr) : Prop := ∃ w c, Does i s (x w c)
      let slow (i : Instr) : Prop := ∃ w c n, Does i s (s.longFor d n (x w c))
      only (.fadd p rm d a b) ∧ only (.fsub p rm d a b) ∧ only (.fmul p rm d a b) ∧ slow (.fdiv p rm d a b) ∧
      slow (.fsqrt p rm d a) ∧ only (.fmin p d a b) ∧ only (.fmax p d a b) ∧ only (.ffma p rm d a b) ∧
      only (.fcvt k p rm d a) ∧ only (.fclass p d a) ∧ only (.feq p d a b) ∧ only (.flt p d a b) ∧ only (.fle p d a b)

/-- Immediate forms (R102) and the parcels that stand for them (R46): each completes with its result in g(d); a parcel moves the
PC on by 2. Bit counts and bit reversal (R100): CLZ, CTZ, POPC and BREV complete, and what they write to g(d) has the property
the table gives: the counted bits are zero and the next one is set, the number of ones, bit i is x[63 − i]. DIV, DIVU, REM and
REMU (R99, R100): outside the cases of R101 each completes with the truncated quotient or the remainder, and its context issues
nothing for 32 core cycles (on a deep core only readers of the result wait). -/
def Obligations.ImmediatesAndDivision : Prop :=
  (∀ (s : State) (d a : GReg) (imm : BitVec 15) (n : BitVec 6),
     WritesG (.addi d a imm) s 4 d (s.g a + imm.signExtend 64) ∧
     WritesG (.andi d a imm) s 4 d (s.g a &&& imm.setWidth 64) ∧
     WritesG (.ori d a imm) s 4 d (s.g a ||| imm.setWidth 64) ∧
     WritesG (.xori d a imm) s 4 d (s.g a ^^^ imm.setWidth 64) ∧
     WritesG (.shli d a n) s 4 d (s.g a <<< n.toNat) ∧
     WritesG (.shri d a n) s 4 d (s.g a >>> n.toNat) ∧
     WritesG (.srai d a n) s 4 d ((s.g a).sshiftRight n.toNat) ∧
     WritesG (.slti d a imm) s 4 d (if (s.g a).toInt < imm.toInt then 1#64 else 0#64) ∧
     WritesG (.movi d imm) s 4 d (imm.signExtend 64) ∧
     WritesG (.lis d imm) s 4 d (s.g d <<< 15 ||| imm.setWidth 64) ∧
     WritesG (.mov d a) s 2 d (s.g a) ∧
     WritesG (.addiS d n) s 2 d (s.g d + n.signExtend 64) ∧
     WritesG (.shliS d n) s 2 d (s.g d <<< n.toNat) ∧
     Does .nop s (s.after 2 fun r => r)) ∧
  (∀ (s : State) (d a : GReg),
     (∃ n : Nat, n ≤ 64 ∧ (∀ i, i < n → (s.g a).getLsbD (63 - i) = false) ∧ (n < 64 → (s.g a).getLsbD (63 - n) = true) ∧
       WritesG (.clz d a) s 4 d (BitVec.ofNat 64 n)) ∧
     (∃ n : Nat, n ≤ 64 ∧ (∀ i, i < n → (s.g a).getLsbD i = false) ∧ (n < 64 → (s.g a).getLsbD n = true) ∧
       WritesG (.ctz d a) s 4 d (BitVec.ofNat 64 n)) ∧
     WritesG (.popc d a) s 4 d (BitVec.ofNat 64 ((List.range 64).countP fun i => (s.g a).getLsbD i)) ∧
     (∃ x : Word, (∀ i, i < 64 → x.getLsbD i = (s.g a).getLsbD (63 - i)) ∧ WritesG (.brev d a) s 4 d x)) ∧
  ∀ (s : State) (d a b : GReg), s.g b ≠ 0#64 →
    let held (w : Word) : Ctx := s.longFor d 32 (s.after 4 fun r => r.setG d.toNat w)
    (¬((s.g a).toInt = -2 ^ 63 ∧ (s.g b).toInt = -1) →
      (∃ q : Word, q.toInt = (s.g a).toInt.tdiv (s.g b).toInt ∧ Does (.div d a b) s (held q)) ∧
      (∃ r : Word, r.toInt = (s.g a).toInt - (s.g b).toInt * (s.g a).toInt.tdiv (s.g b).toInt ∧
        Does (.rem d a b) s (held r))) ∧
    Does (.divu d a b) s (held (BitVec.ofNat 64 ((s.g a).toNat / (s.g b).toNat))) ∧
    Does (.remu d a b) s (held (BitVec.ofNat 64 ((s.g a).toNat % (s.g b).toNat)))

/-- Branches (R108) and their parcels (R46): the PC moves by twice the offset when the condition holds, else past the
instruction; nothing else changes. Jumps (R46, R109, R110) and pool heads (R47): J and J.S and POOL move the PC; JAL and JALR
write the address after the word; a computed jump to an even target completes, its target read before the link is written. A
computed jump to an odd target is fault 0x03 ODD_PC with the jump's own PC, and writes no link (R38, R110). -/
def Obligations.ControlTransfers : Prop :=
  (∀ (s : State) (a b : GReg) (off : BitVec 15) (o6 : BitVec 6),
     let goes (c : Prop) [Decidable c] (n : Nat) (o : Word) : Ctx :=
       s.cc.retire (if c then s.pc + 2#64 * o else s.pc + BitVec.ofNat 64 n);
     Does (.beq a b off) s (goes (s.g a = s.g b) 4 (off.signExtend 64)) ∧
     Does (.bne a b off) s (goes (s.g a ≠ s.g b) 4 (off.signExtend 64)) ∧
     Does (.blt a b off) s (goes ((s.g a).toInt < (s.g b).toInt) 4 (off.signExtend 64)) ∧
     Does (.bge a b off) s (goes ((s.g b).toInt ≤ (s.g a).toInt) 4 (off.signExtend 64)) ∧
     Does (.bltu a b off) s (goes ((s.g a).toNat < (s.g b).toNat) 4 (off.signExtend 64)) ∧
     Does (.bgeu a b off) s (goes ((s.g b).toNat ≤ (s.g a).toNat) 4 (off.signExtend 64)) ∧
     Does (.bz a o6) s (goes (s.g a = 0#64) 2 (o6.signExtend 64)) ∧
     Does (.bnz a o6) s (goes (s.g a ≠ 0#64) 2 (o6.signExtend 64))) ∧
  (∀ (s : State) (d a : GReg) (off : BitVec 25) (o11 : BitVec 11) (n6 : BitVec 6) (n15 : BitVec 15),
     let at_ (pc : Word) (f : Regs → Regs) : Ctx := { s.cc.retire pc with regs := f s.cc.regs };
     Does (.j off) s (at_ (s.pc + 2#64 * off.signExtend 64) fun r => r) ∧
     Does (.jS o11) s (at_ (s.pc + 2#64 * o11.signExtend 64) fun r => r) ∧
     Does (.pool n6) s (at_ (s.pc + 2#64 + 2#64 * n6.setWidth 64) fun r => r) ∧
     Does (.poolw n15) s (at_ (s.pc + 4#64 + 2#64 * n15.setWidth 64) fun r => r) ∧
     Does (.jal off) s (at_ (s.pc + 2#64 * off.signExtend 64) fun r => r.setG 31 (s.pc + 4#64)) ∧
     ((s.g a).getLsbD 0 = false →
       Does (.jr a) s (at_ (s.g a) fun r => r) ∧
       Does (.jalr d a) s (at_ (s.g a) fun r => r.setG d.toNat (s.pc + 4#64))) ∧
     ((s.g 31#5).getLsbD 0 = false → Does .ret s (at_ (s.g 31#5) fun r => r))) ∧
  ∀ (s : State) (d a : GReg),
    ((s.g a).getLsbD 0 = true →
      exec (.jr a) s = .next (s.fault 0x03 (s.g a) 0#64) ∧ exec (.jalr d a) s = .next (s.fault 0x03 (s.g a) 0#64)) ∧
    ((s.g 31#5).getLsbD 0 = true → exec .ret s = .next (s.fault 0x03 (s.g 31#5) 0#64))

/-- Scalar floating point (R99, R103-R107): each instruction completes and writes what one rounding of the operation on g(a),
g(b) (and g(d) for FFMA) read in its precision gives; those that raise conditions OR them into env; FDIV and FSQRT keep their
context out of the rotation for 16 core cycles in FP32 and 28 in FP64 (on a deep core only readers of the result wait). FCLASS
writes the mask of the one class bit of R106. -/
def Obligations.ScalarFloatResults : Prop :=
  ∀ (s : State) (p : Prec) (rm : Rm) (d a b : GReg),
    let F := precFmt p
    let x := precVal p (s.g a)
    let y := precVal p (s.g b)
    let out (v : Fv × Cond) : Ctx :=
      s.after 4 fun r => (r.noted (v.2.or (F.encode rm v.1).2)).setG d.toNat (BitVec.ofNat 64 (F.encode rm v.1).1)
    let long (c : Ctx) : Ctx := s.longFor d (match p with | .f32 => 16 | .f64 => 28) c
    let fused := F.fma rm x y (precVal p (s.g d))
    let other : Prec := match p with | .f32 => .f64 | .f64 => .f32
    let quiet : Bool := (s.g a).getLsbD (match p with | .f32 => 22 | .f64 => 51)
    Does (.fadd p rm d a b) s (out (x.add rm y)) ∧
    Does (.fsub p rm d a b) s (out (x.add rm y.neg)) ∧
    Does (.fmul p rm d a b) s (out (x.mul y)) ∧
    Does (.fdiv p rm d a b) s (long (out (x.div y))) ∧
    Does (.fsqrt p rm d a) s (long (out x.sqrt)) ∧
    Does (.ffma p rm d a b) s (s.after 4 fun r => (r.noted fused.2).setG d.toNat (BitVec.ofNat 64 fused.1)) ∧
    WritesG (.fmin p d a b) s 4 d (BitVec.ofNat 64 (F.encode .rne (x.min y)).1) ∧
    WritesG (.fmax p d a b) s 4 d (BitVec.ofNat 64 (F.encode .rne (x.max y)).1) ∧
    Does (.fcvt .if_ p rm d a) s (out (Fv.ofInt (s.g a).toInt, Cond.none_)) ∧
    Does (.fcvt .ff p rm d a) s (out (precVal other (s.g a), Cond.none_)) ∧
    (let r := x.toInt rm (-2 ^ 63) (2 ^ 63 - 1);
      Does (.fcvt .fi p rm d a) s (s.after 4 fun q => (q.noted r.2).setG d.toNat (BitVec.ofInt 64 r.1))) ∧
    (let r := x.toInt rm 0 (2 ^ 64 - 1);
      Does (.fcvt .fu p rm d a) s (s.after 4 fun q => (q.noted r.2).setG d.toNat (BitVec.ofInt 64 r.1))) ∧
    WritesG (.feq p d a b) s 4 d (if x.eq y then 1#64 else 0#64) ∧
    (let c := if x.isNan || y.isNan then Cond.invalid else Cond.none_;
      Does (.flt p d a b) s (s.after 4 fun q => (q.noted c).setG d.toNat (if x.lt y then 1#64 else 0#64)) ∧
      Does (.fle p d a b) s (s.after 4 fun q => (q.noted c).setG d.toNat (if x.lt y || x.eq y then 1#64 else 0#64))) ∧
    (∃ n : Nat, n < 10 ∧ WritesG (.fclass p d a) s 4 d (BitVec.ofNat 64 (2 ^ n)) ∧
      (match x with
        | .nan => n = if quiet then 9 else 8
        | .inf neg => n = if neg then 0 else 7
        | .fin neg man _ => if man = 0 then n = (if neg then 3 else 4)
          else if man < 2 ^ F.m then n = (if neg then 2 else 5) else n = if neg then 1 else 6))

/-- Codes are exact (R76, R77, R79, R87): rounding the value of a code of any of the eight formats gives the code back, in every
rounding mode, with no condition; no subnormal is flushed. -/
def Obligations.FloatCodesExact : Prop :=
  ∀ (f : Fmt) (rm : Rm) (c : Nat), f ∈ [fp64, fp32, bf16, fp16, e5m2, e4m3, e3m2, e2m3] → c < 2 ^ f.width →
    (f.value c = .nan → f.encode rm (f.value c) = (f.nan, Cond.none_)) ∧
    (f.value c ≠ .nan → f.encode rm (f.value c) = (c, Cond.none_))

/-- Directed rounding (R86, R87): under rdn the result is the greatest value of the format not above the exact one, under rup
the least not below it; under rtz it is the one of the two toward zero. -/
def Obligations.DirectedRounding : Prop :=
  ∀ (f : Fmt) (neg : Bool) (man : Nat) (exp : Int) (c : Nat), f ∈ [fp64, fp32, bf16, fp16] → c < 2 ^ f.width →
    let x : Fv := .fin neg man exp
    let dn := f.value (f.encode .rdn x).1
    let up := f.value (f.encode .rup x).1
    dn ≠ .nan ∧ up ≠ .nan ∧ x.lt dn = false ∧ up.lt x = false ∧
    (f.value c ≠ .nan → x.lt (f.value c) = false → dn.lt (f.value c) = false) ∧
    (f.value c ≠ .nan → (f.value c).lt x = false → (f.value c).lt up = false) ∧
    ((f.encode .rtz x).1 = if neg then (f.encode .rup x).1 else (f.encode .rdn x).1)

/-- FP vectors (R121-R124, R133): on a barrel core each completes, computes every element alone with one rne rounding, and
records the conditions of all elements; the six long functions keep their context out of the rotation for 16 core cycles, 28 in
FP64. -/
def Obligations.VectorFloatResults : Prop :=
  ∀ (s : State) (t : VType) (d a b : VReg), isDeep s.cur.1 = false →
    let F := vFmt t
    let n := F.width
    let x (i : Nat) : Nat := elem n (s.v a) i
    let y (i : Nat) : Nat := elem n (s.v b) i
    let k : Option Nat := some (match t with | .f64 => 28 | _ => 16)
    let keep (g : Bool → Bool) (i : Nat) : Nat × Cond :=
      (if F.value (x i) = .nan then F.nan else F.sign (g (F.value (x i)).sign) + x i % 2 ^ (F.w + F.m), Cond.none_)
    DoesLanes (.vadd t d a b) s d n none (fun i => F.op2 .rne (Fv.add .rne) (x i) (y i)) ∧
    DoesLanes (.vsub t d a b) s d n none (fun i => F.op2 .rne (fun p q => p.add .rne q.neg) (x i) (y i)) ∧
    DoesLanes (.vmul t d a b) s d n none (fun i => F.op2 .rne Fv.mul (x i) (y i)) ∧
    DoesLanes (.vdiv t d a b) s d n k (fun i => F.op2 .rne Fv.div (x i) (y i)) ∧
    DoesLanes (.vmin t d a b) s d n none (fun i => ((F.encode .rne ((F.value (x i)).min (F.value (y i)))).1, Cond.none_)) ∧
    DoesLanes (.vmax t d a b) s d n none (fun i => ((F.encode .rne ((F.value (x i)).max (F.value (y i)))).1, Cond.none_)) ∧
    DoesLanes (.vabs t d a) s d n none (keep fun _ => false) ∧
    DoesLanes (.vneg t d a) s d n none (keep fun g => !g) ∧
    DoesLanes (.vsqrt t d a) s d n k (fun i => F.op1 .rne Fv.sqrt (x i)) ∧
    DoesLanes (.vrcp t d a) s d n k (fun i => F.op1 .rne (Fv.div (.fin false 1 0)) (x i)) ∧
    DoesLanes (.vrsq t d a) s d n k (fun i => F.op1 .rne Fv.rsqrt (x i)) ∧
    DoesLanes (.vexp2 t d a) s d n k (fun i => F.op1 .rne Fv.exp2 (x i)) ∧
    DoesLanes (.vlog2 t d a) s d n k (fun i => F.op1 .rne Fv.log2 (x i)) ∧
    DoesLanes (.vscale t d a b) s d n none (fun i => F.encode .rne ((F.value (x i)).scale (signed n (y i))))

/-- Integer vectors (R125): on a barrel core each completes and computes every element alone, modulo its width; shifts take
their amount modulo the width; no condition is recorded. The multiply-add family (R68, R69, R126, R127): an operand comes from
its latch where the hold bit is set and else from its register; each element is rounded once; the latches then hold the operands
used and the result. -/
def Obligations.VectorIntegerResults : Prop :=
  (∀ (s : State) (z : Size) (d a b : VReg), isDeep s.cur.1 = false →
     let n := 8 * sizeBytes z;
     let x (i : Nat) : Nat := elem n (s.v a) i;
     let y (i : Nat) : Nat := elem n (s.v b) i;
     let does (i : Instr) (f : Nat → Nat) : Prop := ∃ r : Vec, Lanes n r f ∧ WritesV i s d r;
     does (.vaddI z d a b) (fun i => x i + y i) ∧
     (∃ r : Vec, Lanes n r (fun i => elem n r i) ∧ WritesV (.vsubI z d a b) s d r ∧
       ∀ i, i < 512 / n → (elem n r i + y i) % 2 ^ n = x i) ∧
     does (.vmulI z d a b) (fun i => x i * y i) ∧
     does (.vminI z d a b) (fun i => if signed n (x i) ≤ signed n (y i) then x i else y i) ∧
     does (.vmaxI z d a b) (fun i => if signed n (x i) ≤ signed n (y i) then y i else x i) ∧
     does (.vminuI z d a b) (fun i => min (x i) (y i)) ∧
     does (.vmaxuI z d a b) (fun i => max (x i) (y i)) ∧
     does (.vshlI z d a b) (fun i => x i * 2 ^ (y i % n)) ∧
     does (.vshrI z d a b) (fun i => x i / 2 ^ (y i % n)) ∧
     does (.vsraI z d a b) (fun i => (signed n (x i) / 2 ^ (y i % n) % 2 ^ n).toNat) ∧
     does (.vandI z d a b) (fun i => x i &&& y i) ∧
     does (.vorI z d a b) (fun i => x i ||| y i) ∧
     does (.vxorI z d a b) (fun i => x i ^^^ y i)) ∧
  ∀ (s : State) (h : BitVec 3) (t : VType) (lane : BitVec 4) (d a b : VReg), isDeep s.cur.1 = false →
    let F := vFmt t
    let n := F.width
    let A := if h.getLsbD 0 then s.cc.regs.la else s.v a
    let B := if h.getLsbD 1 then s.cc.regs.lb else s.v b
    let C := if h.getLsbD 2 then s.cc.regs.lc else s.v d
    let per := match t with | .bf16 => 2 | .f16 => 2 | _ => 1
    let does (i : Instr) (pick : Nat → Nat) (f : Fv → Fv → Fv → Nat × Cond) : Prop :=
      let r (j : Nat) : Nat × Cond := f (F.value (elem n A (pick j))) (F.value (elem n B j)) (F.value (elem n C j))
      ∃ x : Vec, Lanes n x (fun j => (r j).1) ∧
        Does i s (s.after 4 fun q =>
          { (q.noted (Cond.all ((List.range (512 / n)).map fun j => (r j).2))).setV d.toNat x with la := A, lb := B, lc := x })
    does (.vfma h t d a b) (fun j => j) (F.fma .rne) ∧
    does (.vfms h t d a b) (fun j => j) (fun x y c => F.fma .rne x y c.neg) ∧
    does (.vfnma h t d a b) (fun j => j) (fun x y c => F.fma .rne x.neg y c) ∧
    does (.vfmaBcast h t lane d a b) (fun j => per * lane.toNat + j % per) (F.fma .rne)

/-- Masks, selections and moves (R128, R129, R134-R136): each completes on a barrel core with the bits and elements its entry
gives. Conversions, packing and reductions (R121, R122, R130-R132, R135) complete there too, and change nothing but v(d), or g(d)
and the time of the next issue, and the condition bits of env. -/
def Obligations.VectorMasksAndMoves : Prop :=
  ∀ (s : State) (m g : GReg) (d a b : VReg) (ix : BitVec 5) (z : Size) (dbl : Bool), isDeep s.cur.1 = false →
    let x (i : Nat) : Nat := elem 32 (s.v a) i
    let y (i : Nat) : Nat := elem 32 (s.v b) i
    let vmask (c : VCond) (e : Cond) (f : Nat → Bool) : Prop := ∃ w : Word,
      (∀ i, i < 64 → w.getLsbD i = (decide (i < 16) && f i)) ∧
      Does (.vcmp c m a b) s (s.after 4 fun r => (r.noted e).setG m.toNat w)
    let F (i : Nat) : Fv := fp32.value (x i)
    let G (i : Nat) : Fv := fp32.value (y i)
    let inv : Cond := { Cond.none_ with nv := (List.range 16).any fun i => (F i).isNan || (G i).isNan }
    let on : List Nat := (List.range 16).filter fun i => (s.g m).getLsbD i
    let hit : Nat := (on.filter fun i => x i &&& y i ≠ 0).length
    vmask .eq Cond.none_ (fun i => x i == y i) ∧
    vmask .ne Cond.none_ (fun i => x i != y i) ∧
    vmask .lt Cond.none_ (fun i => decide (signed 32 (x i) < signed 32 (y i))) ∧
    vmask .ltu Cond.none_ (fun i => decide (x i < y i)) ∧
    vmask .feq Cond.none_ (fun i => (F i).eq (G i)) ∧
    vmask .flt inv (fun i => (F i).lt (G i)) ∧
    vmask .fle inv (fun i => (F i).lt (G i) || (F i).eq (G i)) ∧
    vmask .fun_ Cond.none_ (fun i => (F i).isNan || (G i).isNan) ∧
    (∃ r, Lanes 32 r (fun i => if (s.g m).getLsbD i then x i else y i) ∧ WritesV (.vsel m d a b) s d r) ∧
    WritesG (.vtest .any m g a b) s 4 g (if 0 < hit then 1#64 else 0#64) ∧
    WritesG (.vtest .all m g a b) s 4 g (if hit = on.length then 1#64 else 0#64) ∧
    WritesG (.vtest .none_ m g a b) s 4 g (if hit = 0 then 1#64 else 0#64) ∧
    WritesG (.vtest .count m g a b) s 4 g (BitVec.ofNat 64 hit) ∧
    (let n := if dbl then 64 else 32;
      ∃ r, Lanes n r (fun i => elem n (s.v a) (elem n (s.v b) i % (512 / n))) ∧ WritesV (.vperm dbl d a b) s d r) ∧
    (∃ r, Lanes (8 * sizeBytes z) r (fun _ => (s.g g).toNat) ∧ WritesV (.vbcast z d g) s d r) ∧
    WritesV (.vmovv d a) s d (s.v a) ∧
    (ix.toNat < 16 → WritesG (.vmovg ix g a) s 4 g (BitVec.ofNat 64 (x ix.toNat))) ∧
    (16 ≤ ix.toNat → ix.toNat < 24 → WritesG (.vmovg ix g a) s 4 g (BitVec.ofNat 64 (elem 64 (s.v a) (ix.toNat - 16)))) ∧
    (ix.toNat < 16 → ∃ r, Lanes 32 r (fun i => if i = ix.toNat then (s.g g).toNat else elem 32 (s.v d) i) ∧
      WritesV (.vlane ix d g) s d r) ∧
    (16 ≤ ix.toNat → ix.toNat < 24 →
      ∃ r, Lanes 64 r (fun i => if i + 16 = ix.toNat then (s.g g).toNat else elem 64 (s.v d) i) ∧ WritesV (.vlane ix d g) s d r) ∧
    (ix.toNat = 24 → ∃ r, Lanes 32 r (fun i => (s.g g).toNat + i) ∧ WritesV (.vlane ix d g) s d r) ∧
    ∀ (cv : VCvtCode) (k : PackCode) (hi : Bool) (o : VRedOp),
      let only (i : Instr) : Prop := ∃ x e, Does i s (s.after 4 fun r => (r.noted e).setV d.toNat x)
      only (.vcvt cv d a b) ∧ only (.vpack k d a b) ∧ (∃ x, WritesV (.vunpk k hi d a) s d x) ∧
      ∃ w e, Does (.vred o g a) s (s.heldFor 12 (s.after 4 fun r => (r.noted e).setG g.toNat w))

/-- Reductions (R135): VRED completes on a barrel core, holds its context for 12 core cycles (R121), and writes the value of the
fixed pairwise tree over the lanes, with the conditions of its steps. Conversions and packing (R122, R130-R132): VCVT, VPACK and
VUNPK complete on a barrel core. By each code of VCVT, and by the float and integer codes of VPACK, every element of the result
is its source converted alone, with the conditions of all of them; a q4 code packs the block that q4Quant gives (R85); what VPACK's
layout does not use is zero. VUNPK's elements are exactly the values of the codes. -/
def Obligations.VectorReductionsAndConversions : Prop :=
  (∀ (s : State) (o : VRedOp) (d : GReg) (a : VReg), isDeep s.cur.1 = false →
     let n : Nat := match o with
       | .addd => 64
       | .faddf64 => 64
       | .and => 64
       | .or => 64
       | .xor => 64
       | _ => 32;
     let lane (i : Nat) : Nat := elem n (s.v a) i;
     let f (p q : Nat) : Nat × Cond := match o with
       | .fadd => fp32.op2 .rne (Fv.add .rne) p q
       | .fmax => ((fp32.encode .rne ((fp32.value p).max (fp32.value q))).1, Cond.none_)
       | .fmin => ((fp32.encode .rne ((fp32.value p).min (fp32.value q))).1, Cond.none_)
       | .addw => ((p + q) % 2 ^ 32, Cond.none_)
       | .maxw => (if signed 32 p ≤ signed 32 q then q else p, Cond.none_)
       | .minw => (if signed 32 p ≤ signed 32 q then p else q, Cond.none_)
       | .addd => ((p + q) % 2 ^ 64, Cond.none_)
       | .faddf64 => fp64.op2 .rne (Fv.add .rne) p q
       | .and => (p &&& q, Cond.none_)
       | .or => (p ||| q, Cond.none_)
       | .xor => (p ^^^ q, Cond.none_);
     let pair (g : Nat → Nat) (i : Nat) : Nat := (f (g (2 * i)) (g (2 * i + 1))).1;
     let cs (g : Nat → Nat) (m : Nat) : List Cond := (List.range m).map fun i => (f (g (2 * i)) (g (2 * i + 1))).2;
     let l1 := pair lane;
     let l2 := pair l1;
     let l3 := pair l2;
     let top := if n = 32 then pair l3 0 else l3 0;
     let conds := if n = 32 then cs lane 8 ++ cs l1 4 ++ cs l2 2 ++ cs l3 1 else cs lane 4 ++ cs l1 2 ++ cs l2 1;
     let place : Word := match o with
       | .addw => (BitVec.ofNat 32 top).signExtend 64
       | .maxw => (BitVec.ofNat 32 top).signExtend 64
       | .minw => (BitVec.ofNat 32 top).signExtend 64
       | _ => BitVec.ofNat 64 top;
     Does (.vred o d a) s (s.heldFor 12 (s.after 4 fun r => (r.noted (Cond.all conds)).setG d.toNat place))) ∧
  ∀ (s : State) (c : VCvtCode) (k : PackCode) (hi : Bool) (d a b : VReg), isDeep s.cur.1 = false →
    let one (n i : Nat) : Nat := elem n (s.v a) i
    let two (n i : Nat) : Nat := if i < 512 / n then elem n (s.v a) i else elem n (s.v b) (i - 512 / n)
    let toF (f : Fmt) (v : Fv) : Nat × Cond := f.encode .rne v
    -- R88, and R122: a finite value that saturates is inexact too
    let toI (rm : Rm) (n : Nat) (v : Fv) : Nat × Cond :=
      let x := v.toInt rm (-2 ^ (n - 1)) (2 ^ (n - 1) - 1)
      ((x.1 % 2 ^ n).toNat, if x.2.nv && v.isFin then x.2.or Cond.inexact else x.2)
    let cvt (n : Nat) (r : Nat → Nat × Cond) : Prop := DoesLanes (.vcvt c d a b) s d n none r
    (match c with
      | .f32bf16 => cvt 16 fun i => toF bf16 (fp32.value (two 32 i))
      | .f32f16 => cvt 16 fun i => toF fp16 (fp32.value (two 32 i))
      | .bf16f32lo => cvt 32 fun i => toF fp32 (bf16.value (one 16 i))
      | .bf16f32hi => cvt 32 fun i => toF fp32 (bf16.value (one 16 (16 + i)))
      | .f16f32lo => cvt 32 fun i => toF fp32 (fp16.value (one 16 i))
      | .f16f32hi => cvt 32 fun i => toF fp32 (fp16.value (one 16 (16 + i)))
      | .f32i32 => cvt 32 fun i => toI .rne 32 (fp32.value (one 32 i))
      | .f32i32rtz => cvt 32 fun i => toI .rtz 32 (fp32.value (one 32 i))
      | .i32f32 => cvt 32 fun i => toF fp32 (Fv.ofInt (signed 32 (one 32 i)))
      | .f32f64lo => cvt 64 fun i => toF fp64 (fp32.value (one 32 i))
      | .f32f64hi => cvt 64 fun i => toF fp64 (fp32.value (one 32 (8 + i)))
      | .f64f32 => cvt 32 fun i => toF fp32 (fp64.value (two 64 i))
      | .f64i64rtz => cvt 64 fun i => toI .rtz 64 (fp64.value (one 64 i))
      | .i64f64 => cvt 64 fun i => toF fp64 (Fv.ofInt (signed 64 (one 64 i)))) ∧
    (let X (i : Nat) : Fv := fp32.value (two 32 i);
      -- n bits in 32 elements, the conditions of all, and zero above
      let packed (n : Nat) (f : Fv → Nat × Cond) : Prop := ∃ r : Vec, (∀ i, i < 32 → elem n r i = (f (X i)).1 % 2 ^ n) ∧
        (∀ j, 32 * n ≤ j → r.getLsbD j = false) ∧
        Does (.vpack k d a b) s (s.after 4 fun q =>
          (q.noted (Cond.all ((List.range 32).map fun i => (f (X i)).2))).setV d.toNat r);
      match packKind k with
      | .float f => packed f.width (toF f)
      | .int n => packed n (toI .rne n)
      | .q4 x =>
        let blk := q4Quant x ((List.range 32).map X)
        ∃ r : Vec, (∀ i, i < 32 → elem 4 r i = blk.1.getD i 0) ∧ elem 8 r 16 = blk.2.1 ∧
          (∀ j, 136 ≤ j → r.getLsbD j = false) ∧
          Does (.vpack k d a b) s (s.after 4 fun q => (q.noted blk.2.2).setV d.toNat r)) ∧
    (∃ r : Vec, WritesV (.vunpk k hi d a) s d r ∧
      ∀ i, i < 16 →
        let j := if hi then 16 + i else i
        let v : Fv := match packKind k with
          | .float f => f.value (elem f.width (s.v a) j)
          | .int n => Fv.ofInt (signed n (elem n (s.v a) j))
          | .q4 _ => q4Value (elem 8 (s.v a) 16) (elem 4 (s.v a) j)
        (v = .nan → elem 32 r i = fp32.nan) ∧ (v ≠ .nan → (fp32.value (elem 32 r i)).eq v = true))

/-- R30: ONCE, GJOIN, GLEAVE, GLOAD and every instruction of majors 0x1f-0x2a stop a deep-core thread with fault 0x06 NO_UNIT
and the PC of that instruction. -/
def Obligations.DeepCoreHasNoUnits : Prop :=
  ∀ (s : State) (i : Instr), isDeep s.cur.1 = true →
    (i = .once ∨ (∃ d a, i = .gjoin d a) ∨ (∃ d a, i = .gleave d a) ∨ (∃ d a b, i = .gload d a b) ∨
      ∃ w : BitVec 32, encodeWord i = some w ∧ 0x1f ≤ bitsOf w 1 6 ∧ bitsOf w 1 6 ≤ 0x2a) →
    exec i s = .next (s.fault 0x06 0#64 0#64)

/-- Basin addresses (R137): valid exactly when 64-byte aligned in the tarn window of a flat cluster of the partition or in the near
alias, below 4 MiB; any other address stops a barrel thread with fault 0x09 and that address, XMERGE testing its source first. A
poisoned block does not stop a basin instruction, which is the model's choice (log 44). Basin operations (R138): on a barrel core at a
valid address XCLR completes and empties the block under the base in g(b), and the vector forms of XADD and
XMADD add their addends in lane order, XMERGE changes the block under its base, and nothing else; XRND writes g(d) and env's
conditions, and holds its context for 24 core cycles. -/
def Obligations.BasinInstructions : Prop :=
  (∀ (s : State) (a b d : GReg) (c : BitVec 5) (q v : Bool) (f : XForm) (p : Prec) (rm : Rm) (va : Word),
     let N := (s.part s.me.part).n;
     (∀ o : Nat, o < 2 ^ 22 → o % 64 = 0 →
       s.basinKey (BitVec.ofNat 64 (0xffff000000000000 + o)) = some (tarnKey (coreUnit s.cur.1) o) ∧
       ∀ fc : Nat, fc < 6 * N → fc * 2 ^ 23 < 2 ^ 48 →
         s.basinKey (BitVec.ofNat 64 (0xfffe000000000000 + fc * 2 ^ 23 + o)) = some (tarnKey ((s.part s.me.part).clOfFlat fc) o)) ∧
     (s.basinKey va ≠ none ↔ va.toNat % 64 = 0 ∧ ∃ o, o < 2 ^ 22 ∧ (va.toNat = 0xffff000000000000 + o ∨
       ∃ fc, fc < 6 * N ∧ fc * 2 ^ 23 < 2 ^ 48 ∧ va.toNat = 0xfffe000000000000 + fc * 2 ^ 23 + o)) ∧
     (isDeep s.cur.1 = false → s.basinKey (s.g a) = none →
       let stop : Host.Outcome State Fault Refusal := .next (s.fault 0x09 (s.g a) 0#64);
       exec (.xclr q a b) s = stop ∧ exec (.xadd q f a c) s = stop ∧ exec (.xmadd q v a b c) s = stop ∧
       exec (.xrnd q p rm d a) s = stop ∧ exec (.xmerge q b a) s = stop ∧
       (s.basinKey (s.g b) ≠ none → exec (.xmerge q a b) s = stop))) ∧
  ∀ (s : State) (q : Bool) (a b : GReg) (vb vc : BitVec 5) (k : Nat),
    isDeep s.cur.1 = false → s.basinKey (s.g a) = some k →
    let B := Basin.ofMem s.mem k
    let E : Basin := { win := 0, base := ((s.g b).setWidth 16).toInt, ovf := false, loss := false, nan := false, pinf := false,
                       ninf := false }
    (∃ t bs, exec (.xclr q a b) s = .next t ∧ bs.length = 64 ∧ Stored s t k bs ∧ Retired s t 4 (fun r => r) ∧
      Basin.ofMem t.mem k = E ∧ t.mem.poisoned k 1 = false) ∧
    s.basinBecomes (.xadd q .vf32 a vb) k (((List.range 16).map fun i => fp32.value (elem 32 (s.v vb) i)).foldl Basin.add B) ∧
    s.basinBecomes (.xadd q .vf64 a vb) k (((List.range 8).map fun i => fp64.value (elem 64 (s.v vb) i)).foldl Basin.add B) ∧
    s.basinBecomes (.xmadd q true a vb vc) k
      (((List.range 16).map fun i => ((fp32.value (elem 32 (s.v vb) i)).mul (fp32.value (elem 32 (s.v vc) i))).1).foldl
        Basin.add B) ∧
    (s.basinKey (s.g b) ≠ none → ∃ n, s.basinBecomes (.xmerge q a b) k n) ∧
    ∀ (p : Prec) (rm : Rm) (d : GReg), ∃ w c,
      Does (.xrnd q p rm d a) s (s.heldFor 24 (s.after 4 fun x => (x.noted c).setG d.toNat w))

/-- Basin arithmetic (R93, R94, R95). XADD of one value and XMADD of one product leave the block as R93's program does, case by
case: an invalid base, a NaN, an infinity, and else the floor of the exact quotient added modulo 2^384 with LOSS and OVF set as
it says; a product is exact, and of an infinity and zero is a NaN. XMERGE adds the source's value as one addend, ORs the flags and
leaves the source; an invalid base sets NAN and keeps the window. XRND writes the first row of R95's table that applies, leaves
the block, and holds its context for 24 core cycles (R121). And the window and the flags NAN, PINF, NINF and LOSS of a set of
additions do not depend on their order (R96). -/
def Obligations.BasinArithmetic : Prop :=
  let ok (B : Basin) : Prop := -1200 ≤ B.base ∧ B.base ≤ 1100
  -- v × 2^e added by R93's rule
  let added (B n : Basin) (v exp : Int) : Prop :=
    let y : Int := if B.base ≤ exp then v * 2 ^ (exp - B.base).toNat else v / 2 ^ (B.base - exp).toNat
    let t := B.win + y
    n.base = B.base ∧ n.nan = B.nan ∧ n.pinf = B.pinf ∧ n.ninf = B.ninf ∧
    (n.win - t) % 2 ^ 384 = 0 ∧ -2 ^ 383 ≤ n.win ∧ n.win < 2 ^ 383 ∧
    n.ovf = (B.ovf || decide (t < -2 ^ 383) || decide (2 ^ 383 - 1 < t)) ∧
    n.loss = (B.loss || (decide (exp < B.base) && decide (v % 2 ^ (B.base - exp).toNat ≠ 0)))
  let sum (B n : Basin) (x : Fv) : Prop :=
    (¬ok B → n = { B with nan := true }) ∧
    (ok B → (x = .nan → n = { B with nan := true }) ∧ (x = .inf false → n = { B with pinf := true }) ∧
      (x = .inf true → n = { B with ninf := true }) ∧
      ∀ neg man exp, x = .fin neg man exp → added B n (if neg then -(man : Int) else man) exp)
  (∀ (s : State) (q : Bool) (a b c d : GReg) (p : Prec) (rm : Rm) (k : Nat), isDeep s.cur.1 = false →
     s.basinKey (s.g a) = some k →
     let B := Basin.ofMem s.mem k;
     let val (w : Word) : Fv := fp32.value (w.toNat % 2 ^ 32);
     (∃ n, sum B n (val (s.g b)) ∧ s.basinBecomes (.xadd q .f32 a b) k n) ∧
     (∃ n, sum B n (fp64.value (s.g b).toNat) ∧ s.basinBecomes (.xadd q .f64 a b) k n) ∧
     (∃ n x, sum B n x ∧ s.basinBecomes (.xmadd q false a b c) k n ∧
       match val (s.g b), val (s.g c) with
       | .fin n1 m1 e1, .fin n2 m2 e2 => x = .fin (n1 != n2) (m1 * m2) (e1 + e2)
       | .inf n1, .fin n2 m2 _ => x = if m2 = 0 then .nan else .inf (n1 != n2)
       | .fin n1 m1 _, .inf n2 => x = if m1 = 0 then .nan else .inf (n1 != n2)
       | .inf n1, .inf n2 => x = .inf (n1 != n2)
       | .nan, _ => x = .nan
       | _, .nan => x = .nan) ∧
     (∀ ks, s.basinKey (s.g b) = some ks →
       let S := Basin.ofMem s.mem ks
       let D : Basin := { B with ovf := B.ovf || S.ovf, loss := B.loss || S.loss, nan := B.nan || S.nan, pinf := B.pinf || S.pinf,
                                 ninf := B.ninf || S.ninf }
       ∃ n, s.basinBecomes (.xmerge q a b) k n ∧ (ok B → ok S → added D n S.win S.base) ∧
         (¬(ok B ∧ ok S) → n = { D with nan := true })) ∧
     (let F := precFmt p;
      ∃ r : Nat × Cond,
        Does (.xrnd q p rm d a) s (s.heldFor 24 (s.after 4 fun x => (x.noted r.2).setG d.toNat (BitVec.ofNat 64 r.1))) ∧
        (if B.nan = true ∨ (B.pinf = true ∧ B.ninf = true) ∨ B.ovf = true then r = (F.nan, Cond.none_)
         else if B.pinf = true then F.value r.1 = .inf false ∧ r.2 = Cond.none_
         else if B.ninf = true then F.value r.1 = .inf true ∧ r.2 = Cond.none_
         else if B.win = 0 then r = (0, Cond.none_) else r = F.encode rm (.fin (decide (B.win < 0)) B.win.natAbs B.base)))) ∧
  ∀ (B : Basin) (l l' : List Fv), l.Perm l' →
    let r := l.foldl Basin.add B
    let r' := l'.foldl Basin.add B
    r.win = r'.win ∧ r.base = r'.base ∧ r.nan = r'.nan ∧ r.pinf = r'.pinf ∧ r.ninf = r'.ninf ∧ r.loss = r'.loss

/-- Scalar loads (R63, R161, R193): where the checks of R160 lead to readable data on the device, LD, LDS and LDD.S complete,
and the value read, zero- or sign-extended, lands in g(d); LD and LDS that the host or a remote package must answer complete with
the result on the way. An LD or LDS of order sc waits for its window and for the writes before it. Nothing else changes. -/
def Obligations.ScalarLoads : Prop :=
  ∀ (s : State) (z : Size) (o : Order) (c : Scope) (d a : GReg) (off : BitVec 8) (pl : Place),
    let n := sizeBytes z
    let va := s.g a + off.signExtend 64 * BitVec.ofNat 64 n
    let x := leNat (s.readPlace s.me.part pl n)
    let lands (i : Instr) (m : Nat) (w : Word) : Prop :=
      ∃ t, exec i s = .next t ∧ Quiet s t ∧ Lands s t m (.g d.toNat) (.valueG w)
    (s.scOk o → s.relHeld o c = false → s.reaches s.prodAg (Acc.load n) va pl →
      (s.onDevice s.me.part pl = true → s.placePoison pl n = false →
        lands (.ld z o c d a off) 4 (BitVec.ofNat 64 x) ∧ lands (.lds z o c d a off) 4 ((BitVec.ofNat (8 * n) x).signExtend 64)) ∧
      (s.onDevice s.me.part pl = false →
        ∀ i ∈ [Instr.ld z o c d a off, .lds z o c d a off],
          ∃ t id, exec i s = .next t ∧ Quiet s t ∧ Lands s t 4 (.g d.toNat) (.link [id] [] [.far (s.linkKey s.me.part pl)]))) ∧
    (s.reaches s.prodAg (Acc.load 8) (s.g a) pl → s.onDevice s.me.part pl = true → s.placePoison pl 8 = false →
      lands (.lddS d a) 2 (BitVec.ofNat 64 (leNat (s.readPlace s.me.part pl 8))))

/-- Vector loads (R162-R166): on a barrel core, where every element's checks lead to readable data on the device, VLD, VLDM,
VLDS and VGATH complete, and the elements at the addresses of their entry land in v(d) (and the registers after it). -/
def Obligations.VectorLoads : Prop :=
  ∀ (s : State) (z : Size) (dbl : Bool) (o : Order) (c : Scope) (d ix : VReg) (a b : GReg) (off : BitVec 8) (n1 : BitVec 5)
    (P : Nat → Place), isDeep s.cur.1 = false →
    let rd (n j : Nat) : Nat := leNat (s.readPlace s.me.part (P j) n)
    let good (n cnt : Nat) (va : Nat → Word) : Prop := ∀ j, j < cnt →
      s.reaches s.prodAg (Acc.vload n) (va j) (P j) ∧ s.onDevice s.me.part (P j) = true ∧ s.placePoison (P j) n = false
    let lands (i : Instr) (k : Nat) (vs : List Vec) : Prop :=
      ∃ t, exec i s = .next t ∧ Quiet s t ∧ Lands s t 4 (.v d.toNat k) (.valueV vs)
    (s.scOk o → s.relHeld o c = false → good 64 1 (fun _ => s.g a + off.signExtend 64 * 64#64) →
      lands (.vld o c d a off) 1 [BitVec.ofNat 512 (rd 64 0)]) ∧
    (good 64 (n1.toNat + 1) (fun j => s.g a + BitVec.ofNat 64 (64 * j)) →
      lands (.vldm n1 d a) (n1.toNat + 1) ((List.range (n1.toNat + 1)).map fun j => BitVec.ofNat 512 (rd 64 j))) ∧
    (let n := sizeBytes z;
      good n (64 / n) (fun j => s.g a + BitVec.ofNat 64 j * s.g b) →
        ∃ x, Lanes (8 * n) x (rd n) ∧ lands (.vlds z d a b) 1 [x]) ∧
    (let n := if dbl then 8 else 4;
      good n (64 / n) (fun j => s.g a + (BitVec.ofNat (8 * n) (elem (8 * n) (s.v ix) j)).signExtend 64) →
        ∃ x, Lanes (8 * n) x (rd n) ∧ lands (.vgath dbl d a ix) 1 [x])

/-- Scalar stores (R161): where the checks of R160 lead to memory, ST and STD.S complete, and the low bytes of g(d), lowest
first, are stored at the address; nothing else in memory changes. A store to host memory while both links are down waits in the
queue of its partition (R350). -/
def Obligations.ScalarStores : Prop :=
  ∀ (s : State) (z : Size) (o : Order) (c : Scope) (d a : GReg) (off : BitVec 8) (pl : Place) (k : Nat),
    s.placeKey s.me.part pl = some k →
    let n := sizeBytes z
    let va := s.g a + off.signExtend 64 * BitVec.ofNat 64 n
    let bytes (n : Nat) : List Byte := (List.range n).map fun i => (s.g d).extractLsb' (8 * i) 8
    (s.scOk o → s.relHeld o c = false → s.reaches s.ag (Acc.store n) va pl →
      (s.leavesNow pl = true →
        ∃ t, exec (.st z o c d a off) s = .next t ∧ Stored s t k (bytes n) ∧ Retired s t 4 (fun r => r)) ∧
      (pl = .mem k → isHostKey k = true → s.portOf s.me.part = none →
        ∃ t op, exec (.st z o c d a off) s = .next t ∧ Quiet s t ∧ Retired s t 4 (fun r => r) ∧
          t.hostOps = s.hostOps ++ [op] ∧ op.write = true ∧ op.sent = false ∧ op.data = bytes n ∧ op.key = k)) ∧
    (s.reaches s.ag (Acc.store 8) (s.g a) pl → s.leavesNow pl = true →
      ∃ t, exec (.stdS d a) s = .next t ∧ Stored s t k (bytes 8) ∧ Retired s t 2 (fun r => r))

/-- Vector stores (R162-R166): on a barrel core, where every element's checks lead to memory of the device, VST, VSTM, VSTS and VSCAT
complete; each element is stored at its own address in ascending order, so the higher of two at one address remains, and every
byte outside them is as before. -/
def Obligations.VectorStores : Prop :=
  ∀ (s : State) (z : Size) (dbl : Bool) (o : Order) (c : Scope) (d ix : VReg) (a b : GReg) (off : BitVec 8) (n1 : BitVec 5)
    (K : Nat → Nat), isDeep s.cur.1 = false →
    let good (n cnt : Nat) (va : Nat → Word) : Prop := ∀ j, j < cnt →
      s.reaches s.ag (Acc.vstore n) (va j) (.mem (K j)) ∧ isHostKey (K j) = false
    -- the last element that covers a byte gives it
    let stores (i : Instr) (n cnt : Nat) (val : Nat → Nat) : Prop := ∃ t, exec i s = .next t ∧
      (∀ j, j < cnt → ∀ y, y < n → (∀ j', j < j' → j' < cnt → K j + y < K j' ∨ K j' + n ≤ K j + y) →
        t.mem.byte (K j + y) = BitVec.ofNat 8 (val j / 256 ^ y)) ∧
      (∀ x, (∀ j, j < cnt → x < K j ∨ K j + n ≤ x) → t.mem.byte x = s.mem.byte x) ∧
      (∀ x, t.mem.full x = s.mem.full x) ∧ Retired s t 4 (fun r => r)
    (s.scOk o → s.relHeld o c = false → good 64 1 (fun _ => s.g a + off.signExtend 64 * 64#64) →
      stores (.vst o c d a off) 64 1 (fun _ => (s.v d).toNat)) ∧
    (good 64 (n1.toNat + 1) (fun j => s.g a + BitVec.ofNat 64 (64 * j)) →
      stores (.vstm n1 d a) 64 (n1.toNat + 1) (fun j => (s.cc.regs.getV (d.toNat + j)).toNat)) ∧
    (let n := sizeBytes z;
      good n (64 / n) (fun j => s.g a + BitVec.ofNat 64 j * s.g b) →
        stores (.vsts z d a b) n (64 / n) (elem (8 * n) (s.v d))) ∧
    (let n := if dbl then 8 else 4;
      good n (64 / n) (fun j => s.g a + (BitVec.ofNat (8 * n) (elem (8 * n) (s.v ix) j)).signExtend 64) →
        stores (.vscat dbl d a ix) n (64 / n) (elem (8 * n) (s.v d)))

/-- The checks of R160 in their order, for an access by the current thread: 1 an address that is not canonical is 0x10 (a near alias
on a deep core 0x06, R30); 2 an untranslated one in no window usable for it 0x16 (R143); 3 a misaligned one 0x0a; 4 a full/empty
access that leads to a word with no full/empty bit 0x0b; 5 one whose page request is outstanding waits for it; 6 and 7 one that its
answer refused faults with that code (0x13, 0x14: R330); 8 a write of a sealed page 0x08. The access with its order passes its release
and SC gates first; then loads, stores, full/empty accesses and atomics stop with the check's fault and the address, and 9 a load or
atomic of poisoned data with 0x61; held, a load retires with its destination empty and a store stays at its PC. A vector access is
checked element by element in ascending order: its elements before the failing one are stored, a vector load writes nothing, ADDRESS
is the element's and DETAIL its number for the codes of R166. -/
def Obligations.AccessFaults : Prop :=
  (∀ (s : State) (g : Agent) (A : Acc) (va : Word), g = s.ag ∨ g = s.prodAg →
    let N := (s.part s.me.part).n
    let x := va.toNat % 2 ^ 48
    let top := va.toNat / 2 ^ 48
    let deep := isDeep s.cur.1 = true
    let raw := 0xfffc000000000000 ≤ va.toNat
    let usable := (top = 0xfffd ∧ x < 65536 * N ∧ A.fe = false ∧ A.amo = false ∧ A.vec = false ∧ (A.write = false ∨ deep)) ∨
      (top = 0xfffe ∧ x / 2 ^ 23 < 6 * N ∧ x % 2 ^ 23 < 2 ^ 22) ∨ (top = 0xffff ∧ x < 2 ^ 22 ∧ ¬deep)
    let B := s.bulk (coreBulk s.cur.1)
    let pasid := s.pasid s.me.part s.me.vf
    let page := va.toNat / 65536
    let refusal := B.refused.find? fun r => r.holder = g.holder && r.pasid == pasid && r.vpage == page && (A.write || !r.write)
    let gives (r : Ares) : Prop := (s.access g A va).1 = r
    (canonical va = false → gives (.fault 0x10 0#64)) ∧
    (canonical va = true → nearAlias va = true → deep → gives (.fault 0x06 0#64)) ∧
    (canonical va = true → ¬(nearAlias va = true ∧ deep) →
      (raw → ¬usable → gives (.fault 0x16 0#64)) ∧
      ((raw → usable) → va.toNat % A.align ≠ 0 → gives (.fault 0x0a 0#64)) ∧
      (¬raw → va.toNat % A.align = 0 →
        (∀ r, refusal = some r → gives (.fault r.code r.detail)) ∧
        (refusal = none → (∀ t, (s.part s.me.part).tagOf pasid = some t → B.lookup t.tag page A.write = none) →
          (∃ q, B.reqs.find? (fun q => q.serves pasid page A.write) = some q ∧ q.st = 1) → gives .page))) ∧
    (∀ pl, (s.locate g A va).1 = .ok pl →
      (A.fe = true → (∀ k, pl = .mem k → keyHasFe k = false → gives (.fault 0x0b 0#64)) ∧
        ∀ w d, pl = .remote w d → gives (.fault 0x0b 0#64)) ∧
      (∀ k, pl = .mem k → (A.fe = true → keyHasFe k = true) → A.write = true → s.sealed k = true → gives (.fault 0x08 0#64))) ∧
    ∀ (l rest : List Word) (ps : List Place) (t u : State) (code : Nat) (det : Word),
      s.places g A l 0 = (ps, none, t) → t.access g A va = (.fault code det, u) →
        s.places g A (l ++ va :: rest) 0 = (ps, some (l.length, va, .fault code det), u)) ∧
  ∀ (s : State) (o : Order) (c : Scope) (z : Size) (dbl : Bool) (d a b : GReg) (off : BitVec 8) (v ix : VReg) (n1 : BitVec 5),
    s.scOk o → s.relHeld o c = false →
    let n := sizeBytes z
    let m := if dbl then 8 else 4
    let va := s.g a + off.signExtend 64 * BitVec.ofNat 64 n
    let va8 := s.g a + off.signExtend 64 * 8#64
    let loads : List Instr := [.ld z o c d a off, .lds z o c d a off]
    let atomics : List Instr := [.amoAdd dbl o c d a b, .amoAnd dbl o c d a b, .amoOr dbl o c d a b, .amoXor dbl o c d a b,
      .amoMin dbl o c d a b, .amoMax dbl o c d a b, .amoMinu dbl o c d a b, .amoMaxu dbl o c d a b, .amoSwap dbl o c d a b,
      .amoFadd dbl o c d a b, .cas dbl o c d a b]
    let fe (w : Bool) : Acc := { Acc.load 8 with write := w, fe := true }
    let stops (A : Acc) (x : Word) (i : Instr) : Prop := ∀ code det t,
      s.access s.ag A x = (.fault code det, t) → exec i s = .next (t.fault code x det)
    let fails (A : Acc) (x : Word) (i : Instr) : Prop := ∀ code det t,
      s.access s.prodAg A x = (.fault code det, t) → exec i s = .next (t.fault code x (elemDetail code 0 det))
    let poisoned (t : State) (x : Word) (i : Instr) : Prop := exec i s = .next (t.fault 0x61 x 0#64)
    ((∀ i ∈ loads, fails (Acc.load n) va i) ∧ (∀ i ∈ atomics, fails (Acc.atomic m) (s.g a) i) ∧
      stops (Acc.store n) va (.st z o c d a off) ∧ stops (fe false) va8 (.ldfe o c d a off) ∧ stops (fe false) va8 (.ldf o c d a off) ∧
      stops (fe true) va8 (.stef o c d a off) ∧ stops (fe true) va8 (.stf o c d a off)) ∧
    (∀ pl t, s.access s.prodAg (Acc.load n) va = (.ok pl, t) → t.onDevice s.me.part pl = true → t.placePoison pl n = true →
      ∀ i ∈ loads, poisoned t va i) ∧
    (∀ pl t, s.access s.prodAg (Acc.atomic m) (s.g a) = (.ok pl, t) → pl.linked = false → t.placePoison pl m = true →
      ∀ i ∈ atomics, poisoned t (s.g a) i) ∧
    (∀ pl t, s.access s.ag (fe false) va8 = (.ok pl, t) → (t.placeKey s.me.part pl).isSome = true → t.placePoison pl 8 = true →
      poisoned t va8 (.ldfe o c d a off) ∧ poisoned t va8 (.ldf o c d a off)) ∧
    (∀ t, s.access s.prodAg (Acc.load n) va = (.page, t) → ∀ i ∈ loads, ∃ u, exec i s = .next u ∧
      Lands s u 4 (.g d.toNat) (.held (some (va.toNat / 65536)))) ∧
    (∀ t, s.access s.ag (Acc.store n) va = (.page, t) → ∃ u, exec (.st z o c d a off) s = .next u ∧ u.cc.pc = s.pc ∧
      u.cc.regs = s.cc.regs ∧ u.cc.retired = s.cc.retired ∧ u.cc.noticed = some (va.toNat / 65536) ∧ u.cc.wait ≠ .none_) ∧
    (isDeep s.cur.1 = false →
      let va64 := s.g a + off.signExtend 64 * 64#64
      let reads (n : Nat) (l : List Word) (i : Instr) : Prop := ∀ ps r t, s.places s.prodAg (Acc.vload n) l 0 = (ps, r, t) →
        (∀ pl ∈ ps, t.onDevice s.me.part pl = true) →
        (∀ j, ps.findIdx? (fun pl => t.placePoison pl n) = some j →
          exec i s = .next (t.fault 0x61 (l.getD j 0#64) (BitVec.ofNat 64 j))) ∧
        (∀ j x code det, (∀ pl ∈ ps, t.placePoison pl n = false) → r = some (j, x, .fault code det) →
          exec i s = .next (t.fault code x (elemDetail code j det)))
      let writes (n : Nat) (l : List (Word × List Byte)) (i : Instr) : Prop := ∀ ps j x code det t,
        s.places s.ag (Acc.vstore n) (l.map fun e => e.1) 0 = (ps, some (j, x, .fault code det), t) →
          exec i s = .next (((ps.zip l).foldl (fun u y => u.storeCur y.1 y.2.2) t).fault code x (elemDetail code j det))
      let strided := strideAddrs n (s.g a) (s.g b)
      let indexed := indexAddrs m (s.g a) (s.v ix)
      let blocks := (List.range (n1.toNat + 1)).map fun j => s.g a + BitVec.ofNat 64 (64 * j)
      reads 64 [va64] (.vld o c v a off) ∧ reads n strided (.vlds z v a b) ∧ reads m indexed (.vgath dbl v a ix) ∧
      reads 64 blocks (.vldm n1 v a) ∧
      writes 64 [(va64, leBytes 64 (s.v v).toNat)] (.vst o c v a off) ∧ writes n (elemBytes n (s.v v) strided) (.vsts z v a b) ∧
      writes m (elemBytes m (s.v v) indexed) (.vscat dbl v a ix) ∧
      writes 64 ((List.range (n1.toNat + 1)).map fun j =>
        (s.g a + BitVec.ofNat 64 (64 * j), leBytes 64 (s.cc.regs.getV (v.toNat + j)).toNat)) (.vstm n1 v a))

/-- Full/empty accesses that succeed (R168): LDFE takes the word and leaves it empty, LDF takes it, their value on its
way (R63), STEF fills an empty word and STF any; each completes, and no other byte and no other full/empty bit changes. Full/empty
accesses that fail (R168, R169): nothing changes but the count of attempts, the instruction stays at the PC, and the 64th failure in a row asks the home to park
the context. -/
def Obligations.FullEmptyAccesses : Prop :=
  (∀ (s : State) (o : Order) (c : Scope) (d a : GReg) (off : BitVec 8) (k : Nat), isHostKey k = false → k % 8 = 0 →
     let va := s.g a + off.signExtend 64 * 8#64;
     let ok (w : Bool) : Prop := s.reaches s.ag { Acc.load 8 with write := w, fe := true } va (.mem k) ∧
       s.scOk o ∧ s.relHeld o c = false;
     let leaves (i : Instr) (word : Word) (full : Bool) (P : State → Prop) : Prop := ∃ t, exec i s = .next t ∧
       P t ∧ t.mem.word k = word ∧ t.mem.full k = full ∧
       (∀ x, x / 8 ≠ k / 8 → t.mem.byte x = s.mem.byte x ∧ t.mem.full x = s.mem.full x) ∧ t.pf = s.pf;
     let got (t : State) : Prop := Lands s t 4 (.g d.toNat) (.valueG (s.mem.word k));
     let kept (t : State) : Prop := Retired s t 4 fun r => r;
     (ok false → s.mem.poisoned k 8 = false → s.mem.full k = true →
       leaves (.ldfe o c d a off) (s.mem.word k) false got ∧ leaves (.ldf o c d a off) (s.mem.word k) true got) ∧
     (ok true →
       (s.mem.full k = false → leaves (.stef o c d a off) (s.g d) true kept) ∧
       leaves (.stf o c d a off) (s.g d) true kept)) ∧
  ∀ (s : State) (o : Order) (c : Scope) (d a : GReg) (off : BitVec 8) (k : Nat),
    let va := s.g a + off.signExtend 64 * 8#64
    let ok (w : Bool) : Prop := s.reaches s.ag { Acc.load 8 with write := w, fe := true } va (.mem k)
    let fails (i : Instr) : Prop := ∃ t, exec i s = .next t ∧ Quiet s t ∧ t.cc.regs = s.cc.regs ∧ t.cc.pc = s.cc.pc ∧
      t.cc.retired = s.cc.retired ∧ t.cc.feTries = s.cc.feTries + 1 ∧
      t.cc.wait = if s.cc.feTries + 1 < 64 then .none_ else .parkReq
    (ok false → s.mem.poisoned k 8 = false → s.mem.full k = false → fails (.ldfe o c d a off) ∧ fails (.ldf o c d a off)) ∧
    (ok true → s.mem.full k = true → fails (.stef o c d a off))

/-- Atomics (R171, R172): at a place on the device each completes; the word is replaced in the one step by the combination of
its entry, the old value lands in g(d), and no other byte changes. FADD rounds once, rne. Atomics on host memory (R173): over a
link that is up without CXL.cache an operation other than AMO.ADD, AMO.SWAP and CAS, or any with env's HR bit set, is fault 0x35;
AMO.ADD, AMO.SWAP and CAS without HR go out as AtomicOps, and with CXL.cache the others ask for the ownership of a line that the
proxy home does not own, their results on the way. -/
def Obligations.AtomicResults : Prop :=
  (∀ (s : State) (dbl : Bool) (o : Order) (c : Scope) (d a b : GReg) (k : Nat), isHostKey k = false →
     let n := if dbl then 8 else 4;
     s.reaches s.prodAg (Acc.atomic n) (s.g a) (.mem k) → s.placePoison (.mem k) n = false → s.scOk o →
     s.relHeld o c = false →
     let w := 8 * n;
     let old : BitVec w := BitVec.ofNat w (leNat (s.mem.bytes k n));
     let y : BitVec w := (s.g b).setWidth w;
     let does (i : Instr) (new : BitVec w) : Prop := ∃ t, exec i s = .next t ∧
       Stored s t k (leBytes n new.toNat) ∧ Lands s t 4 (.g d.toNat) (.valueG (old.setWidth 64));
     does (.amoAdd dbl o c d a b) (old + y) ∧
     does (.amoAnd dbl o c d a b) (old &&& y) ∧
     does (.amoOr dbl o c d a b) (old ||| y) ∧
     does (.amoXor dbl o c d a b) (old ^^^ y) ∧
     does (.amoMin dbl o c d a b) (if old.toInt ≤ y.toInt then old else y) ∧
     does (.amoMax dbl o c d a b) (if y.toInt ≤ old.toInt then old else y) ∧
     does (.amoMinu dbl o c d a b) (if old.toNat ≤ y.toNat then old else y) ∧
     does (.amoMaxu dbl o c d a b) (if y.toNat ≤ old.toNat then old else y) ∧
     does (.amoSwap dbl o c d a b) y ∧
     (let F := if dbl then fp64 else fp32;
       does (.amoFadd dbl o c d a b)
         (BitVec.ofNat w (let v := (F.value old.toNat).add .rne (F.value y.toNat); (F.encode .rne v.1).1))) ∧
     does (.cas dbl o c d a b) (if old = (s.g d).setWidth w then y else old)) ∧
  ∀ (s : State) (dbl : Bool) (c : Scope) (d a b : GReg) (k : Nat), isHostKey k = true →
    s.reaches s.prodAg (Acc.atomic (if dbl then 8 else 4)) (s.g a) (.mem k) →
    let stops (i : Instr) : Prop := ∃ t, exec i s = .next (t.fault 0x35 (s.g a) 0#64) ∧ Quiet s t ∧ t.cc = s.cc
    let goes (i : Instr) : Prop := ∃ t id, exec i s = .next t ∧ Quiet s t ∧ Lands s t 4 (.g d.toNat) (.link [id] [] [.far k])
    ((s.portOf s.me.part).isSome = true → s.cxl s.me.part = false →
      stops (.amoAnd dbl .plain c d a b) ∧ stops (.amoOr dbl .plain c d a b) ∧ stops (.amoXor dbl .plain c d a b) ∧
      stops (.amoMin dbl .plain c d a b) ∧ stops (.amoMax dbl .plain c d a b) ∧ stops (.amoMinu dbl .plain c d a b) ∧
      stops (.amoMaxu dbl .plain c d a b) ∧ stops (.amoFadd dbl .plain c d a b) ∧
      (s.cc.regs.env.getLsbD 8 = true → stops (.amoAdd dbl .plain c d a b) ∧ stops (.amoSwap dbl .plain c d a b) ∧
        stops (.cas dbl .plain c d a b))) ∧
    (s.cc.regs.env.getLsbD 8 = false → goes (.amoAdd dbl .plain c d a b) ∧ goes (.amoSwap dbl .plain c d a b) ∧
      goes (.cas dbl .plain c d a b)) ∧
    (s.cxl s.me.part = true → s.hostOwned s.me.part k = false →
      goes (.amoAnd dbl .plain c d a b) ∧ goes (.amoOr dbl .plain c d a b) ∧ goes (.amoXor dbl .plain c d a b) ∧
      goes (.amoMin dbl .plain c d a b) ∧ goes (.amoMax dbl .plain c d a b) ∧ goes (.amoMinu dbl .plain c d a b) ∧
      goes (.amoMaxu dbl .plain c d a b) ∧ goes (.amoFadd dbl .plain c d a b))

/-- FENCE with nothing outstanding (R176), PREF (R177) and FLUSH at an address that passes its checks (R178): each retires and
changes no register and no memory; a FENCE.rel or FENCE.sc makes the first write after it a release at its scope (R191). -/
def Obligations.FencesAndHints : Prop :=
  ∀ (s : State) (o : Order) (c : Scope) (p q : Bool) (a : GReg) (pl : Place),
    (let x := s.after 4 fun r => r
     s.cc.inflight.any Producer.unfixed = false → s.relHeld o c = false →
       (¬(o = .rel ∨ o = .sc) → Does (.fence o c) s x) ∧
       (o = .rel ∨ o = .sc → Does (.fence o c) s
         { x with fence := some (match s.cc.fence with | some e => if c.bits.toNat < e.bits.toNat then e else c | none => c) })) ∧
    (∃ t, exec (.pref p q a) s = .next t ∧ Quiet s t ∧ Retired s t 4 fun r => r) ∧
    (s.reaches s.ag Acc.probe (s.g a) pl →
      ∃ t, exec (.flush p q a) s = .next t ∧ Quiet s t ∧ Retired s t 4 fun r => r)

/-- NEST (R367): at a device or tarn address it writes status 7 for operands out of their limits, else the whole block from
e0-e2 and status 0; an address that leads elsewhere is status 9. ITER and ITER.step (R368, R369). ITER answers
0x8000000000000001 on a block that is not set up, 0x8000000000000002 where it may not lie, 0 when nothing is left, and else
claims the chunk of R368, moving NEXT and CLAIMS and giving the coordinates in i0-i2. ITER.step advances the coordinates by one
iteration. -/
def Obligations.NestAndIteration : Prop :=
  (∀ (s : State) (d a : GReg) (pl : Place) (nest : Bool),
     let i := if nest then Instr.nest d a else .iter d a
     let acc := if nest then Acc.vstore 64 else { Acc.atomic 64 with vec := true };
     (s.locate s.ag acc (s.g a)).1 = .ok pl → homeKey pl = none →
       ∃ t, exec i s = .next t ∧ Quiet s t ∧ Retired s t 4 fun r => r.setG d.toNat (if nest then 9#64 else 0x8000000000000002#64)) ∧
  (∀ (s : State) (d a : GReg) (pl : Place), s.reaches s.ag (Acc.vstore 64) (s.g a) pl →
     let e0 := bitsOf (s.e 0) 0 32;
     let e1 := bitsOf (s.e 0) 32 32;
     let e2 := bitsOf (s.e 1) 0 32;
     let P := bitsOf (s.e 1) 32 16;
     let F := bitsOf (s.e 1) 48 4;
     let lo := bitsOf (s.e 2) 0 32;
     let hi := bitsOf (s.e 2) 32 32;
     let bad := e0 = 0 ∨ e1 = 0 ∨ e2 = 0 ∨ 2 ^ 48 - 1 < e0 * e1 * e2 ∨ P = 0 ∨ 7 < F ∨ lo = 0 ∨ hi < lo ∨
       bitsOf (s.e 1) 52 12 ≠ 0;
     let answers (w : Word) : Prop :=
       ∃ t, exec (.nest d a) s = .next t ∧ Quiet s t ∧ Retired s t 4 fun r => r.setG d.toNat w;
     (homeKey pl ≠ none → bad → answers 7#64) ∧
     (∀ k, homeKey pl = some k → ¬bad → ∃ t bs, exec (.nest d a) s = .next t ∧ bs.length = 64 ∧ Stored s t k bs ∧
       Retired s t 4 (fun r => r.setG d.toNat 0#64) ∧
       Nest.ofMem t.mem k = { next := 0, e0 := e0, e1 := e1, e2 := e2, p := P, f := F, valid := true, minc := lo, maxc := hi,
                              total := e0 * e1 * e2, claims := 0, clean := true })) ∧
  (∀ (s : State) (d a : GReg) (pl : Place), s.reaches s.ag { Acc.atomic 64 with vec := true } (s.g a) pl →
    let same (w : Word) : Prop := ∃ t, exec (.iter d a) s = .next t ∧ Quiet s t ∧ Retired s t 4 fun r => r.setG d.toNat w
    ∀ k, homeKey pl = some k → s.placePoison pl 64 = false →
      let B := Nest.ofMem s.mem k
      (B.valid = false ∨ B.clean = false → same 0x8000000000000001#64) ∧
      (B.valid = true → B.clean = true → B.total ≤ B.next → same 0#64) ∧
      (B.valid = true → B.clean = true → B.next < B.total → 0 < B.e0 → 0 < B.e1 → 0 < B.p → B.f < 8 →
        let r := B.total - B.next
        let q := B.p * 2 ^ B.f
        let c := min r (min B.maxc (max B.minc ((r + q - 1) / q)))
        let ix (e x : Nat) : Word := BitVec.ofNat 64 (e * 2 ^ 32) ||| BitVec.ofNat 64 x
        ∃ t bs, exec (.iter d a) s = .next t ∧ bs.length = 64 ∧ Stored s t k bs ∧
          Nest.ofMem t.mem k = { B with next := B.next + c, claims := (B.claims + 1) % 2 ^ 32 } ∧
          Retired s t 4 fun x => (((x.setI 0 (ix B.e0 (B.next % B.e0))).setI 1 (ix B.e1 (B.next / B.e0 % B.e1))).setI 2
            (ix B.e2 (B.next / (B.e0 * B.e1)))).setG d.toNat (BitVec.ofNat 64 c))) ∧
  ∀ s : State,
    let x (n : Nat) : Nat := bitsOf (s.cc.regs.getI n) 0 32
    let e (n : Nat) : Nat := bitsOf (s.cc.regs.getI n) 32 32
    let put (n v : Nat) : Word := BitVec.ofNat 64 (e n * 2 ^ 32 + v % 2 ^ 32)
    let round (n : Nat) : Prop := (x n + 1) % 2 ^ 32 = if e n = 0 then 2 ^ 32 else e n
    (¬round 0 → Does .iterStep s (s.after 4 fun r => ((r.setI 0 (put 0 (x 0 + 1))).setI 1 (put 1 (x 1))).setI 2 (put 2 (x 2)))) ∧
    (round 0 → ¬round 1 →
      Does .iterStep s (s.after 4 fun r => ((r.setI 0 (put 0 0)).setI 1 (put 1 (x 1 + 1))).setI 2 (put 2 (x 2)))) ∧
    (round 0 → round 1 →
      Does .iterStep s (s.after 4 fun r => ((r.setI 0 (put 0 0)).setI 1 (put 1 0)).setI 2 (put 2 (x 2 + 1))))

/-- MDRES (R215), MSTAT (R217) and ACCRD (R216) on a barrel core: MDRES answers 7 unless the tile is faulted and hands its saved
drain on; MSTAT reads the tile's status; ACCRD of a tile that is neither locked nor named in the queue takes its sixteen
elements, and of another waits with nothing done but the retry counted. That MDRES of a tile that shows FAULT with no saved drain
answers 0 and does nothing is the model's choice (log 93). -/
def Obligations.TileInstructions : Prop :=
  ∀ (s : State) (d a : GReg) (vd : VReg) (t : BitVec 3), isDeep s.cur.1 = false →
    let u := coreUnit s.cur.1
    let U := s.unit u
    let T := U.tile t.toNat
    (T.fault = false → WritesG (.mdres d t) s 4 d 7#64) ∧
    (T.fault = true → (∀ y ∈ U.saved, y.1 ≠ t.toNat) → WritesG (.mdres d t) s 4 d 0#64) ∧
    (∀ y, T.fault = true → U.saved.find? (fun y => y.1 == t.toNat) = some y →
      Queues (.mdres d t) s d 0#64 u fun z =>
        { z with saved := z.saved.filter fun p => p.1 ≠ t.toNat, resumed := z.resumed ++ [{ y.2 with phase := .waiting }] }) ∧
    (∃ w : Word, WritesG (.mstat d t) s 4 d w ∧ w.getLsbD 0 = T.lock ∧ w.getLsbD 1 = T.fault ∧ bitsOf w 4 6 = T.crow % 64 ∧
      bitsOf w 10 1 = T.cblk % 2 ∧ bitsOf w 12 6 = T.prog % 64 ∧
      bitsOf w 20 5 = (U.mq.filter fun c => c.hasTile && c.tile == t.toNat).length % 32) ∧
    (U.accBlocked t.toNat = false → ∃ v, Lanes 32 v (fun l => (U.elem t.toNat (bitsOf (s.g a) 0 6) (16 * bitsOf (s.g a) 6 2 + l)).toNat) ∧
      ∃ n, exec (.accrd vd t a) s = .next n ∧ Quiet s n ∧ Lands s n 4 (.v vd.toNat 1) (.valueV [v])) ∧
    (U.accBlocked t.toNat = true → ∃ n, exec (.accrd vd t a) s = .next n ∧ Quiet s n ∧ n.cc.regs = s.cc.regs ∧
      n.cc.pc = s.cc.pc ∧ n.cc.wait = .tile t.toNat)

/-- Matrix commands (R201, R202, R209, R211-R214, R218): on a barrel core whose queue has room each completes; the command, with
e0-e7 as they stand at issue, enters the queue when its status is 0, and the status is g(d). The first status that applies
(R205-R207, R209): 1 K no multiple its formats require, 2 the formats and their classes, 3 the spans, scale arrays and index
list, 4 the drain descriptor, 5 the completion address, 6 reserved bits, 8 DPLOAD's slot and source, else 0. -/
def Obligations.MatrixIssue : Prop :=
  (∀ c : ECmd,
     let mma := c.fn = fMMA ∨ c.fn = fMMAG;
     let f (r lo n : Nat) : Nat := bitsOf (c.reg r) lo n;
     let M := 8 * 2 ^ f 3 0 2;
     let N := 8 * 2 ^ f 3 2 2;
     let K := f 3 4 13 + 1;
     let fa := f 3 17 4;
     let fb := f 3 21 4;
     let mult (x : Nat) : Nat := if x = 5 ∨ x = 6 then 4 else if x = 8 then 2 else if x = 9 then 32 else 1;
     let bits (x : Nat) : Nat := if x = 0 then 32 else if x = 1 ∨ x = 2 then 16 else if x = 3 ∨ x = 4 ∨ x = 7 then 8
       else if x = 5 ∨ x = 6 then 6 else 4;
     let row (x : Nat) : Nat := (K * bits x + 7) / 8;
     let span (r len rows : Nat) : Prop := f r 0 22 % 64 ≠ 0 ∨ f r 22 22 % 64 ≠ 0 ∨ f r 22 22 < len ∨
       2 ^ 22 < f r 0 22 + (rows - 1) * f r 22 22 + len;
     let scales (x lo rows : Nat) : Prop := x = 9 ∧ 2 ^ 22 < f 2 lo 22 + rows * (K / 32);
     let rows := if c.fn = fMMAG then 1 else M;
     let drains := c.fn = fMDRAIN ∨ (mma ∧ (c.reg 3).getLsbD 31 = true);
     let s1 := mma ∧ ((fa ≤ 9 ∧ K % mult fa ≠ 0) ∨ (fb ≤ 9 ∧ K % mult fb ≠ 0));
     let s2 := mma ∧ (9 < fa ∨ 9 < fb ∨ ¬((fa = 7 ∨ fa = 8) ↔ (fb = 7 ∨ fb = 8)));
     let s3 := (mma ∧ (span 0 (row fa) rows ∨ scales fa 0 rows ∨ span 1 (row fb) N ∨ scales fb 22 N)) ∨
       (c.fn = fMMAG ∧ (f 7 0 22 % 64 ≠ 0 ∨ 2 ^ 22 < f 7 0 22 + 2 * M)) ∨ (c.fn = fMLOAD ∧ span 0 (4 * N) M);
     let s4 := drains ∧ f 4 0 22 % 64 ≠ 0;
     let s5 := canonical (c.reg 5) = false ∨ (c.reg 5).toNat % 8 ≠ 0;
     let s6 := (mma ∧ (f 0 44 20 ≠ 0 ∨ f 1 44 20 ≠ 0 ∨ ((fa = 9 ∨ fb = 9) ∧ f 2 44 20 ≠ 0))) ∨ (c.fn = fMLOAD ∧ f 0 44 20 ≠ 0) ∨
       ((mma ∨ c.fn = fMLOAD ∨ c.fn = fMDRAIN) ∧ f 3 32 32 ≠ 0) ∨ (drains ∧ f 4 22 42 ≠ 0) ∨ (c.fn = fMMAG ∧ f 7 22 42 ≠ 0);
     let s8 := c.fn = fDPLOAD ∧ (63 < c.slot ∨ c.src.toNat % 64 ≠ 0);
     (s1 → c.matrixStatus = 1) ∧ (¬s1 → s2 → c.matrixStatus = 2) ∧ (¬s1 → ¬s2 → s3 → c.matrixStatus = 3) ∧
     (¬s1 → ¬s2 → ¬s3 →
       (s4 → c.matrixStatus = 4) ∧ (¬s4 → s5 → c.matrixStatus = 5) ∧ (¬s4 → ¬s5 → s6 → c.matrixStatus = 6) ∧
       (¬s4 → ¬s5 → ¬s6 → s8 → c.matrixStatus = 8) ∧ (¬s4 → ¬s5 → ¬s6 → ¬s8 → c.matrixStatus = 0))) ∧
  ∀ (s : State) (x : EFlags) (d a b : GReg) (t : BitVec 3), isDeep s.cur.1 = false →
    let u := coreUnit s.cur.1
    (s.unit u).mqRoom = true →
    let queued (i : Instr) (fn tile : Nat) (src : Word → Prop) (slot : Nat) : Prop :=
      ∃ c : ECmd, c.matrix = true ∧ c.fn = fn ∧ c.tile = tile ∧ c.fl = x ∧ c.phase = .waiting ∧ c.piece = 0 ∧
        (∀ n, n < 8 → n ≠ 5 ∨ nearAlias (s.e n) = false → c.reg n = s.e n) ∧ src c.src ∧ c.slot = slot ∧
        c.issuer.tid = s.tid ∧ c.issuer.pc = s.pc ∧ c.issuer.faultLine = s.me.faultLine ∧ c.issuer.unit = u ∧
        Queues i s d (BitVec.ofNat 64 c.matrixStatus) u
          (fun z => if c.matrixStatus = 0 then { z with mq := z.mq ++ [c] } else z)
    queued (.mma x d t) 0 t.toNat (· = 0#64) 0 ∧ queued (.mmag x d t) 1 t.toNat (· = 0#64) 0 ∧
    queued (.mzero x d t) 2 t.toNat (· = 0#64) 0 ∧ queued (.mload x d t) 3 t.toNat (· = 0#64) 0 ∧
    queued (.mdrain x d t) 4 t.toNat (· = 0#64) 0 ∧
    queued (.dpload x d a b) 8 8 (fun w => nearAlias (s.g a) = false → w = s.g a) (s.g b).toNat

/-- Copy commands (R30, R231, R232, R235-R237): with a free entry in the outbound queue and, on a deep core, no address operand
in the near alias, each completes; with status 0 the command is queued, and the status is g(d): the first of R237's table that
applies. A near-alias operand of a deep core is fault 0x06 with that operand. -/
def Obligations.CopyIssue : Prop :=
  (∀ c : ECmd,
     let f (lo n : Nat) : Nat := bitsOf (c.reg 2) lo n;
     let s1 := (c.fn = 1 ∧ (f 0 24 = 0 ∨ f 24 24 = 0 ∨ 2 ^ 36 - 1 < f 0 24 * f 24 24)) ∨ (c.fn = 2 ∧ (f 0 13 = 0 ∨ 4096 < f 0 13));
     let s3 := c.fn = 2 ∧ (c.reg 3).toNat % 4 ≠ 0;
     let s5 := canonical (c.reg 5) = false ∨ (c.reg 5).toNat % 8 ≠ 0;
     let s6 := (c.fn = 1 ∧ f 48 16 ≠ 0) ∨ (c.fn = 2 ∧ (f 13 3 ≠ 0 ∨ f 40 24 ≠ 0)) ∨ (c.fn ≠ 1 ∧ c.fn ≠ 2 ∧ f 36 28 ≠ 0);
     (s1 → c.copyStatus = 1) ∧ (¬s1 → s3 → c.copyStatus = 3) ∧ (¬s1 → ¬s3 → s5 → c.copyStatus = 5) ∧
     (¬s1 → ¬s3 → ¬s5 → s6 → c.copyStatus = 6) ∧ (¬s1 → ¬s3 → ¬s5 → ¬s6 → c.copyStatus = 0)) ∧
  ∀ (s : State) (x : EFlags) (d : GReg),
    let u := coreUnit s.cur.1
    s.outRoom u = true →
    let queued (i : Instr) (fn : Nat) (ops : List Nat) : Prop :=
      ((isDeep s.cur.1 = true → ∀ r ∈ ops, nearAlias (s.e r) = false) →
        ∃ c : ECmd, c.matrix = false ∧ c.fn = fn ∧ c.fl = x ∧ c.phase = .waiting ∧ c.piece = 0 ∧
          (∀ n, n < 8 → n ∉ ops ∨ nearAlias (s.e n) = false → c.reg n = s.e n) ∧
          c.issuer.tid = s.tid ∧ c.issuer.pc = s.pc ∧ c.issuer.unit = u ∧ c.issuer.weight = s.me.weight ∧
          Queues i s d (BitVec.ofNat 64 c.copyStatus) u
            (fun z => if c.copyStatus = 0 then { z with outq := z.outq ++ [c] } else z)) ∧
      (isDeep s.cur.1 = true → ∀ r l, ops = l ++ r :: (ops.drop (l.length + 1)) → (∀ q ∈ l, nearAlias (s.e q) = false) →
        nearAlias (s.e r) = true → exec i s = .next (s.fault 0x06 (s.e r) 0#64))
    queued (.cpy x d) 0 [0, 1, 5] ∧ queued (.cpys x d) 1 [0, 1, 5] ∧ queued (.cpyg x d) 2 [0, 1, 3, 5] ∧
    queued (.fill x d) 3 [1, 5]

/-- GATE (R242, R243) on a thread with a free entry, no near-alias operand on a deep core: status 10, 11, 12 or the command's own
leaves no trace; with room at the counter's home the command is parked under status 0, and fires at once when the counter reads
zero; while the home cannot serve the read of the counter (R151, R352) the GATE waits. Status 10 is what R242 says of g(b), which else gives the parked command its engine, funct, tile and flags. -/
def Obligations.GateResults : Prop :=
  ∀ (s : State) (d a b : GReg),
    let u := coreUnit s.cur.1
    let va := s.g a
    (s.unit u).gates.length < 32 →
    (isDeep s.cur.1 = true → nearAlias va = false ∧ ∀ r ∈ [0, 1, 3, 5], nearAlias (s.e r) = false) →
    let answers (w : Word) : Prop := ∃ t, exec (.gate d a b) s = .next t ∧ Quiet s t ∧ Retired s t 4 fun r => r.setG d.toNat w
    let x := s.g b
    (s.parked x = none ↔ bitsOf x 14 50 ≠ 0 ∨ (x.getLsbD 0 = true ∧ (4 < bitsOf x 1 4 ∨ isDeep s.cur.1 = true)) ∨
      (x.getLsbD 0 = false ∧ (3 < bitsOf x 1 4 ∨ bitsOf x 5 3 ≠ 0)) ∨ 6 ≤ bitsOf x 10 3) ∧
    (s.parked x = none → answers 10#64) ∧
    ∀ c, s.parked x = some c →
      (c.matrix = x.getLsbD 0 ∧ c.fn = bitsOf x 1 4 ∧ c.tile = bitsOf x 5 3 ∧ c.fl.acq = x.getLsbD 8 ∧ c.fl.rel = x.getLsbD 9 ∧
        c.fl.dec = x.getLsbD 13 ∧ c.issuer.tid = s.tid ∧ ∀ n, n < 8 → n ∉ [0, 1, 3, 5] ∨ nearAlias (s.e n) = false → c.reg n = s.e n) ∧
      (canonical va = false ∨ va.toNat % 8 ≠ 0 → answers 11#64) ∧
      (canonical va = true → va.toNat % 8 = 0 → ∀ pl, (s.locate s.ag (Acc.load 8) va).1 = .ok pl →
        (homeKey pl = none → answers 11#64) ∧
        ∀ k, homeKey pl = some k →
          let home := (s.homeGate s.ag k 8 false pl (s.biGrant s.ag k 8 false)).1
          (isDevKey k = true → home ≠ .ok pl → Acts (.gate d a b) s fun t =>
            t.cc.wait ≠ .none_ ∧ t.cc.pc = s.cc.pc ∧ t.cc.regs = s.cc.regs) ∧
          (isDevKey k = false ∨ home = .ok pl →
          (c.status ≠ 0 → answers (BitVec.ofNat 64 c.status)) ∧
          let room := s.recordWatcher (keyBulk k) (k / 64) (.gate u (s.unit u).gateSeq)
          (c.status = 0 → room = none → answers 12#64) ∧
          (c.status = 0 → room ≠ none →
            ∃ t g, exec (.gate d a b) s = .next t ∧ Quiet s t ∧ (Retired s t 4 fun r => r.setG d.toNat 0#64) ∧
              (t.unit u).gates.length = (s.unit u).gates.length + 1 ∧ (t.unit u).gates.getLast? = some g ∧
              g.counter = k ∧ g.cmd = c ∧ (g.fired.isSome = true ↔ s.mem.num k 8 = 0))))

/-- WATCH (R256, R258): where checks 1 to 7 of R160 lead to a line that can be watched, the first status that applies is g(d); a
watch that is armed takes the lowest free number of the thread and one descriptor of its home core; a line in transition (R151),
or a host line that its proxy home does not hold yet (R157), holds the WATCH. UNWATCH and UNWATCH.all
(R259): status 0 and the descriptor (every descriptor) of the thread gone, or status 1 when there is none; a refused translation
is status 1, never a fault. -/
def Obligations.WatchAndUnwatch : Prop :=
  (∀ (s : State) (d a : GReg) (pl : Place), (s.locate s.ag Acc.probe (s.g a)).1 = .ok pl →
     let mine := s.watchesOf s.tid;
     let kept : State → Prop := fun t => t.watchesOf s.tid = mine;
     (s.watchBusy s.me.part pl = true → Acts (.watch d a) s fun t =>
       t.cc.wait ≠ .none_ ∧ t.cc.pc = s.cc.pc ∧ t.cc.regs = s.cc.regs ∧ kept t) ∧
     (s.watchLine s.me.part pl = none → Answers (.watch d a) s d 0x82#64 kept) ∧
     ∀ line home, s.watchLine s.me.part pl = some (line, home) → s.watchBusy s.me.part pl = false →
       (∀ w, mine.find? (fun w => w.line == line) = some w → Answers (.watch d a) s d (BitVec.ofNat 64 (0x10 + w.num)) kept) ∧
       ((∀ w ∈ mine, w.line ≠ line) →
         (4 ≤ mine.length → Answers (.watch d a) s d 0x80#64 kept) ∧
         (mine.length < 4 → 1024 ≤ (s.core (tidCore s.tid)).watches.length → Answers (.watch d a) s d 0x81#64 kept) ∧
         (mine.length < 4 → (s.core (tidCore s.tid)).watches.length < 1024 →
           ∃ n, n < 4 ∧ (∀ w ∈ mine, w.num ≠ n) ∧ (∀ m, m < n → ∃ w ∈ mine, w.num = m) ∧ ∃ coarse : Bool,
             (coarse = true ↔ s.recordWatcher home line (.thread s.tid n) = none) ∧
             Answers (.watch d a) s d (BitVec.ofNat 64 (if coarse then 0x20 + n else n)) fun t =>
               t.watchesOf s.tid = mine ++ [{ tid := s.tid, num := n, line := line, coarse := coarse, home := home }]))) ∧
  ∀ (s : State) (d a : GReg),
    let mine := s.watchesOf s.tid
    let r := (s.locate { s.ag with holder := .unwatch s.cur.1 s.cur.2 } Acc.probe (s.g a)).1
    (∀ code x, r = .fault code x → Answers (.unwatch d a) s d 1#64 fun t => t.watchesOf s.tid = mine) ∧
    (∀ pl, r = .ok pl → s.watchLine s.me.part pl = none → Answers (.unwatch d a) s d 1#64 fun t => t.watchesOf s.tid = mine) ∧
    (∀ pl line home, r = .ok pl → s.watchLine s.me.part pl = some (line, home) →
      ((∀ w ∈ mine, w.line ≠ line) → Answers (.unwatch d a) s d 1#64 fun t => t.watchesOf s.tid = mine) ∧
      (∀ w, mine.find? (fun w => w.line == line) = some w →
        Answers (.unwatch d a) s d 0#64 fun t => t.watchesOf s.tid = mine.filter fun x => x ≠ w)) ∧
    Answers (.unwatchAll d) s d (if mine = [] then 1#64 else 0#64) fun t => t.watchesOf s.tid = []

/-- Group operations (R180) on a barrel core: a deadline that has passed starts its fill first. Else GJOIN (R181): the first status
that applies is g(d); a join that counts adds the caller's cluster to the
group's members, and to an invalid entry gives its shape from e0-e2 with L = −1. GLEAVE and GLOAD (R182-R184):
the first status that applies is g(d). A departure takes the member's cluster off both counts; an ask that counts adds it to the
askers, opens the pending fill if there is none, and starts it when every member has asked. -/
def Obligations.GroupInstructions : Prop :=
  let late (s : State) (g : Nat) : Prop :=
    g ≤ 63 ∧ (s.grp s.me.part g).valid = true ∧ (s.grp s.me.part g).p = true ∧ (s.grp s.me.part g).deadline < s.tsOf s.me.part
  (∀ (s : State) (d a b : GReg), isDeep s.cur.1 = false → late s (s.g a).toNat →
     let s' := s.startFill s.me.part (s.g a).toNat true;
     s'.me = s.me →
     exec (.gjoin d a) s = exec (.gjoin d a) s' ∧ exec (.gleave d a) s = exec (.gleave d a) s' ∧
     exec (.gload d a b) s = exec (.gload d a b) s' ∧ ¬late s' (s'.g a).toNat) ∧
  (∀ (s : State) (d a : GReg), isDeep s.cur.1 = false → ¬late s (s.g a).toNat →
     let p := s.me.part;
     let g := (s.g a).toNat;
     let E := s.grp p g;
     let fc := (s.part p).flatCl (coreUnit s.cur.1);
     let o := (s.e 0).toNat;
     let z := (s.e 1).toNat;
     let m := bitsOf (s.e 2) 0 9;
     let tm := bitsOf (s.e 2) 32 32;
     let bad := 63 < g ∨ o % 64 ≠ 0 ∨ z % 64 ≠ 0 ∨ z = 0 ∨ 2 ^ 22 < o + 2 * z ∨ m = 0 ∨ 6 * (s.part p).n < m ∨ tm = 0 ∨
       bitsOf (s.e 2) 9 23 ≠ 0 ∨ canonical (s.e 3) = false ∨ (s.e 3).toNat % 8 ≠ 0 ∨ bitsOf (s.e 4) 1 63 ≠ 0;
     let kept : State → Prop := fun t => t.parts = s.parts;
     let same := E.off = o ∧ E.size = z ∧ E.m = m ∧ E.timer = tm;
     (bad → Answers (.gjoin d a) s d 7#64 kept) ∧
     (¬bad → E.valid = true →
       (¬same → Answers (.gjoin d a) s d 2#64 kept) ∧
       (same → E.j = E.m → Answers (.gjoin d a) s d 1#64 kept) ∧
       (same → E.j ≠ E.m → fc ∈ E.members → Answers (.gjoin d a) s d 3#64 kept) ∧
       (same → E.j ≠ E.m → fc ∉ E.members → Answers (.gjoin d a) s d 0#64 fun t =>
         t.grp p g = { E with j := E.j + 1, members := E.members ++ [fc] })) ∧
     (¬bad → E.valid = false → Answers (.gjoin d a) s d 0#64 fun t =>
       (t.grp p g).valid = true ∧ (t.grp p g).m = m ∧ (t.grp p g).off = o ∧ (t.grp p g).size = z ∧ (t.grp p g).timer = tm ∧
       (t.grp p g).l = 0xffffffff#32 ∧ (t.grp p g).j = 1 ∧ (t.grp p g).a = 0 ∧ (t.grp p g).p = false ∧
       (t.grp p g).members = [fc])) ∧
  ∀ (s : State) (d a b : GReg), isDeep s.cur.1 = false → ¬late s (s.g a).toNat →
    let p := s.me.part
    let g := (s.g a).toNat
    let E := s.grp p g
    let me := (s.mems p g).find? fun x => x.tid == s.tid
    let kept : State → Prop := fun t => t.parts = s.parts
    let n := ((s.g b).setWidth 32 - E.l).toNat
    let bad := 63 < g ∨ E.valid = false ∨ canonical (s.e 0) = false ∨ (s.e 0).toNat % 64 ≠ 0 ∨ untranslated (s.e 0) = true ∨
      (s.e 1).toNat % 64 ≠ 0 ∨ (s.e 1).toNat = 0 ∨ E.size < (s.e 1).toNat
    (63 < g ∨ E.valid = false → Answers (.gleave d a) s d 7#64 kept) ∧
    (g ≤ 63 → E.valid = true → me = none → Answers (.gleave d a) s d 5#64 kept) ∧
    (∀ x, g ≤ 63 → E.valid = true → me = some x → Answers (.gleave d a) s d 0#64 fun t =>
      (t.grp p g).j = E.j - 1 ∧ (t.grp p g).m = E.m - 1 ∧ (t.grp p g).members = E.members.filter (fun y => y ≠ x.fc) ∧
      (t.grp p g).valid = decide (E.m - 1 ≠ 0)) ∧
    (bad → Answers (.gload d a b) s d 7#64 kept) ∧
    (¬bad → me = none → Answers (.gload d a b) s d 5#64 kept) ∧
    (∀ x, ¬bad → me = some x →
      (n = 0 → Answers (.gload d a b) s d 2#64 kept) ∧
      (n = 1 → x.fc ∈ E.asked → Answers (.gload d a b) s d 6#64 kept) ∧
      (1 < n → n ≤ 2 ^ 31 → Answers (.gload d a b) s d 4#64 kept) ∧
      (2 ^ 31 < n → Answers (.gload d a b) s d 3#64 kept) ∧
      (n = 1 → x.fc ∉ E.asked → E.a + 1 ≠ E.m → Answers (.gload d a b) s d 0#64 fun t =>
        (t.grp p g).asked = E.asked ++ [x.fc] ∧ (t.grp p g).a = E.a + 1 ∧ (t.grp p g).p = true ∧
        (E.p = false → (t.grp p g).deadline = s.tsOf p + E.timer ∧ (t.grp p g).source = s.e 0 ∧ (t.grp p g).len = (s.e 1).toNat)) ∧
      (n = 1 → x.fc ∉ E.asked → E.a + 1 = E.m → Answers (.gload d a b) s d 1#64 fun t =>
        (t.grp p g).l = E.l + 1#32 ∧ (t.grp p g).p = false ∧ (t.grp p g).a = 0 ∧
        ∃ f, (t.grp p g).fills = E.fills ++ [f] ∧ f.seq = E.l + 1#32 ∧ f.asked = E.m ∧ f.timed = false))

/-- Suspension points of a resident thread with no producer in flight and its writes performed (R18, R19, R194, R261, R264, R267):
the record keeps the PC
after the instruction and g1-g4, the context is free, and the record sleeps or is ready as the entry of SLEEP, SLEEP.T, YIELD
and MIGRATE says; YIELD with no other thread to run, or by a steward, only goes on; MIGRATE by a steward is fault 0x07 and to no
cluster 0x0c. A suspension point with producers in flight, or writes not performed (R19, R194): the instruction retires, the
context issues nothing more, and nothing else happens yet. That a steward's 0x07 (R21) comes before 0x0c, for the invalid targets of
R267 too, is the model's choice (log 45). -/
def Obligations.SuspensionResults : Prop :=
  (∀ (s : State) (a : GReg), s.resident s.tid = true → s.findRec s.tid = some s.me → s.cc.inflight = [] →
     s.writesOut s.me.part .part = false →
     let suspends (i : Instr) (n : Nat) (P : Rec → Prop) : Prop := ∃ t q, exec i s = .next t ∧ t.mem = s.mem ∧ t.pf = s.pf ∧
       (t.ctx s.cur.1 s.cur.2).bound = false ∧ t.findRec s.tid = some q ∧ q.pc = canon (s.pc + BitVec.ofNat 64 n) ∧
       q.g1 = s.g 1#5 ∧ q.g2 = s.g 2#5 ∧ q.g3 = s.g 3#5 ∧ q.g4 = s.g 4#5 ∧ q.place = none ∧ P q;
     let D := (s.g a).toNat;
     let now := s.tsOf s.me.part;
     (s.me.pending = 0#4 → suspends .sleep 2 fun q => q.state = .sleeping ∧ q.deadline = none ∧ q.deliver = true) ∧
     (s.me.pending ≠ 0#4 → suspends .sleep 2 fun q => q.state = .ready ∧ q.deliver = true ∧ q.wokeDeadline = false) ∧
     (s.me.pending = 0#4 → now < D → suspends (.sleepT a) 4 fun q => q.state = .sleeping ∧ q.deadline = some D ∧ q.deliver = true) ∧
     (s.me.pending ≠ 0#4 ∨ D ≤ now → suspends (.sleepT a) 4 fun q =>
       q.state = .ready ∧ q.deliver = true ∧ q.wokeDeadline = decide (D ≤ now)) ∧
     (tidSlot s.tid ≠ 0 → s.queued s.cur.1 s.me.prio.toNat = true →
       suspends .yield 2 fun q => q.state = .ready ∧ q.deliver = false ∧ q.level = s.me.prio.toNat) ∧
     (tidSlot s.tid = 0 ∨ s.queued s.cur.1 s.me.prio.toNat = false → Does .yield s (s.after 2 fun r => r)) ∧
     (tidSlot s.tid ≠ 0 → D < 6 → suspends (.migrate a) 4 fun q => q.state = .ready ∧ q.migrate = some D ∧ q.deep = false) ∧
     (tidSlot s.tid ≠ 0 → D = 8 → suspends (.migrate a) 4 fun q => q.state = .ready ∧ q.deep = true) ∧
     (tidSlot s.tid ≠ 0 → 6 ≤ D → D ≠ 8 → exec (.migrate a) s = .next (s.fault 0x0c 0#64 (s.g a))) ∧
     (tidSlot s.tid = 0 → exec (.migrate a) s = .next (s.fault 0x07 0#64 0#64))) ∧
  ∀ (s : State) (a : GReg), s.cc.inflight ≠ [] ∨ s.writesOut s.me.part .part = true →
    let waits (i : Instr) (n : Nat) (u : Susp) : Prop := ∃ t, exec i s = .next t ∧ Quiet s t ∧
      t.cc = { s.after n (fun r => r) with susp := some u } ∧ ∀ k c, t.ready k c = true → (k, c) ≠ s.cur
    waits .sleep 2 (.sleep none) ∧ waits (.sleepT a) 4 (.sleep (some (s.g a).toNat)) ∧
    (tidSlot s.tid ≠ 0 → (s.g a).toNat < 6 ∨ (s.g a).toNat = 8 → waits (.migrate a) 4 (.migrate (s.g a).toNat)) ∧
    (tidSlot s.tid ≠ 0 → waits .endThread 2 .endT)

/-- END (R266) by a thread with no producer in flight and its writes performed: a steward stops with 0x07; any other's watches are gone and its context
is free, and its record is retired, or, with AUTOREAP, gone. WAKE (R263): 3 for a thread outside the partition, 2 for no live
thread, 1 for one that is not asleep; a sleeping thread, resident or spilled, becomes ready with bit 5 of its next wake mask
set. -/
def Obligations.EndAndWakeResults : Prop :=
  (∀ s : State,
     (tidSlot s.tid = 0 → exec .endThread s = .next (s.fault 0x07 0#64 0#64)) ∧
     (tidSlot s.tid ≠ 0 → s.resident s.tid = true → s.findRec s.tid = some s.me → s.cc.inflight = [] →
       s.writesOut s.me.part .part = false → (∀ r ∈ (s.bulk (tidBulk s.tid)).shallows, r.tid ≠ s.tid) →
       ∃ t, exec .endThread s = .next t ∧ t.pf = s.pf ∧ (t.ctx s.cur.1 s.cur.2).bound = false ∧ t.watchesOf s.tid = [] ∧
         ((∀ g x, g < 64 → x ∈ s.mems s.me.part g → x.tid ≠ s.tid) → t.mem = s.mem) ∧
         (s.me.autoreap = true → t.findRec s.tid = none) ∧
         (s.me.autoreap = false → ∃ q, t.findRec s.tid = some q ∧ q.state = .retired ∧ q.pc = canon (s.pc + 2#64) ∧
           q.g1 = s.g 1#5 ∧ q.launchId = none))) ∧
  ∀ (s : State) (d a : GReg),
    let x : W32 := (s.g a).setWidth 32
    let inPart := (s.part s.me.part).bulks.contains (tidBulk x)
    (inPart = false → WritesG (.wake d a) s 4 d 3#64) ∧
    (inPart = true → s.findRec x = none → WritesG (.wake d a) s 4 d 2#64) ∧
    (∀ r, inPart = true → s.findRec x = some r →
      let asleep := (r.state = .sleeping ∧ r.sendwait = false) ∨ (r.state = .spilled ∧ r.spillKind = 1#2)
      (¬asleep → WritesG (.wake d a) s 4 d 1#64) ∧
      (asleep → Answers (.wake d a) s d 0#64 fun t => ∃ q, t.findRec x = some q ∧ q.wokeWake = true ∧ q.deadline = none ∧
        (s.resident x = true → q.state = .ready) ∧ (q.state = .ready ∨ q.spillKind = 0#2)))

/-- SPAWN (R28, R265, R303) on a block that can be read: a home core that does not exist or fields out of their limits answer
0x8000000000000002, no room 0x8000000000000001; without the authority the thread stops with 0x51; else g(d) is the id of a new
thread whose record holds the block's fields, ready in a free slot or spilled. -/
def Obligations.SpawnResults : Prop :=
  ∀ (s : State) (d a : GReg) (pl : Place), s.reaches s.ag (Acc.load 64) (s.g a) pl → pl.linked = false →
    s.placePoison pl 64 = false →
    let bs := s.readPlace s.me.part pl 64
    let w := wordAt bs 0x18
    let kept : State → Prop := fun t => ∀ x, t.findRec x = s.findRec x
    (s.spawnCore bs = none → Answers (.spawn d a) s d 0x8000000000000002#64 kept) ∧
    ∀ core, s.spawnCore bs = some core → core / 32 < 64 →
      let ok := s.spawnAllowed core (bitsOf w 0 10)
      (ok = false → ∃ t, exec (.spawn d a) s = .next (t.fault 0x51 (s.g a) (BitVec.ofNat 64 (4 + 2 * 256))) ∧ Quiet s t ∧ t.cc = s.cc) ∧
      (ok = true → s.spawnBad bs = true → Answers (.spawn d a) s d 0x8000000000000002#64 kept) ∧
      (ok = true → s.spawnBad bs = false → s.freeSlot core = none → s.shallowRoom (core / 32) = false →
        Answers (.spawn d a) s d 0x8000000000000001#64 kept) ∧
      (ok = true → s.spawnBad bs = false → s.freeSlot core ≠ none ∨ s.shallowRoom (core / 32) = true →
        ∃ id : W32, tidCore id = core ∧ tidSlot id ≠ 0 ∧ Answers (.spawn d a) s d (id.setWidth 64) fun t =>
          s.findRec id = none → ∃ q, t.findRec id = some q ∧ (q.state = .ready ∨ q.state = .spilled) ∧
            q.pc = wordAt bs 0 ∧ q.faultLine = wordAt bs 8 ∧ q.inbox = wordAt bs 0x10 ∧ q.g1 = wordAt bs 0x20 ∧
            q.g2 = wordAt bs 0x28 ∧ q.g3 = wordAt bs 0x30 ∧ q.g4 = wordAt bs 0x38 ∧ q.vf = s.me.vf ∧ q.part = s.me.part ∧
            q.table.toNat = bitsOf w 0 10 ∧ q.prio.toNat = bitsOf w 10 2 ∧ q.roam = w.getLsbD 12 ∧ q.save = w.getLsbD 13 ∧
            q.autoreap = w.getLsbD 14 ∧ q.launchId = none)

/-- ONCE (R115, R116) and YIELD.G (R114, R285). The first execution of ONCE counts q; on the elected core the pair's instruction
follows under that count; elsewhere the context makes no access, and retires the pair at once when its destination is g0, or
with a held post of that count, or waits. YIELD.G only retires unless a cooperative switch away from its VF is pending; then it
counts as an arrival and waits. -/
def Obligations.OnceAndYieldG : Prop :=
  ∀ s : State,
    let k := s.cur.1
    let c := s.cur.2
    let q := s.cc.regs.q + 1#8
    let f := s.onceFollower k c
    let elected := (s.modCur fun x => x.modRegs fun r => { r with q := q }).onceElected k c
    (isDeep k = false → s.cc.wait ≠ .oncePost →
      (elected = k → Does .once s
        { s.cc with regs := { s.cc.regs with q := q }, wait := .none_, onceQ := some q, pc := s.pc + 2#64 }) ∧
      (elected ≠ k → f.1 = 0 → Does .once s (s.after (2 + f.2) fun r => { r with q := q })) ∧
      (elected ≠ k → f.1 ≠ 0 → (∀ p ∈ s.cc.posts, p.q ≠ q) →
        Does .once s { s.cc with regs := { s.cc.regs with q := q }, wait := .oncePost }) ∧
      (∀ p, elected ≠ k → f.1 ≠ 0 → s.cc.posts.find? (fun p => p.q == q) = some p → s.cc.gFull f.1 = true →
        ∃ t, exec .once s = .next t ∧ OnlyCur s t ∧
          Retired s t (2 + f.2) fun r => { r with q := q }.setG f.1 (p.value.setWidth 64))) ∧
    (let arrives := ∃ w, (s.part s.me.part).switch = some w ∧ w.coop = true ∧ s.reached s.me.part k w = false ∧
        s.vfRuns s.me.part s.me.vf = true ∧ isDeep k = false ∧ c ≠ 0;
      (¬arrives → Does .yieldG s (s.after 4 fun r => r)) ∧
      (∀ w, (s.part s.me.part).switch = some w → arrives → ∃ t, exec .yieldG s = .next t ∧ Quiet s t ∧
        (Retired s t 4 fun r => r) ∧ t.cc.wait = .yieldG ∧
        (t.part s.me.part).switch = some { w with arrived := w.arrived + 1 }))

/-- SEND and SENDN (R270, R271, R273): to a thread outside the partition both answer 3. SEND carries e0-e7 to its target and
waits for the answer; SENDN with a free entry of the send buffer queues the message and answers 0 at once. RECV and RECVN (R268,
R274): without an inbox RECV answers 4 and RECVN 0; RECVN reads the counts of the ring and the mere; RECV of an empty inbox
answers 1, and else takes the ring's oldest message (status 0), or the mere's (status 2), to the block at g(a) and moves that
tail on. -/
def Obligations.MessageInstructions : Prop :=
  (∀ (s : State) (d a : GReg),
     let x : W32 := (s.g a).setWidth 32;
     let m : Msg := { sender := s.tid, target := x, pc := s.pc, body := s.cc.regs.message };
     let buf := (s.core s.cur.1).sendBuf;
     -- the message of a SENDN that waits holds no place
     let used := (buf.filter fun e => !e.extra).length;
     (∀ i, i < 8 → elem 64 m.body i = (s.e i).toNat) ∧
     (s.sendable x = false → WritesG (.send d a) s 4 d 3#64 ∧ WritesG (.sendn d a) s 4 d 3#64) ∧
     (s.sendable x = true →
       Does (.send d a) s { s.cc with msg := some (m, d.toNat), answer := none, wait := .answer } ∧
       (used < 64 → ∃ e : SendEntry, e.posted = true ∧ e.msg = m ∧ e.first = none ∧ e.tries = 0 ∧
         Answers (.sendn d a) s d 0#64 fun t => (t.core s.cur.1).sendBuf = buf ++ [e]))) ∧
  ∀ (s : State) (d a : GReg) (kd : Nat), isHostKey kd = false → s.reaches s.ag (Acc.vstore 64) (s.g a) (.mem kd) →
    let r := s.me
    let lands (w : Word) : Prop := ∃ t, exec (.recv d a) s = .next t ∧ Quiet s t ∧ Lands s t 4 (.g d.toNat) (.valueG w)
    (r.inbox = 0#64 → lands 4#64 ∧ WritesG (.recvn d) s 4 d 0#64) ∧
    ∀ k x, r.inbox ≠ 0#64 → (s.inboxOf r).1 = .ok k x → k + 64 ≤ 2 ^ 64 →
      (Answers (.recvn d) s d (BitVec.ofNat 64 (x.ring + x.mere * 2 ^ 32)) fun _ => True) ∧
      (x.ring = 0 → x.mere = 0 → lands 1#64) ∧
      (let takes (base : Word) (n tail off status : Nat) : Prop := ∀ e,
          (s.homeOf r.inboxAgent (base + BitVec.ofNat 64 (64 * (tail % 2 ^ n)))).1 = some e →
          kd + 64 ≤ k + off ∨ k + off + 4 ≤ kd →
          ∃ t, exec (.recv d a) s = .next t ∧ Lands s t 4 (.g d.toNat) (.valueG (BitVec.ofNat 64 status)) ∧
            t.mem.bytes kd 64 = s.mem.bytes e 64 ∧ t.mem.num (k + off) 4 = (tail + 1) % 2 ^ 32 ∧
            (∀ y, (y < kd ∨ kd + 64 ≤ y) → (y < k + off ∨ k + off + 4 ≤ y) → t.mem.byte y = s.mem.byte y) ∧
            (∀ y, t.mem.full y = s.mem.full y) ∧ t.pf = s.pf;
        (x.ring ≠ 0 → takes x.rbase x.ringK x.rtail 0x18 0) ∧
        (x.ring = 0 → x.mere ≠ 0 → takes x.mbase x.mereK x.mtail 0x1c 2))

/-- What every thread-state instruction asks of its target (R300, R306): 8 for a reserved bit, 3 for a thread outside the
partition, fault 0x51 with the right and the funct without the authority, which an instruction that has begun and waits is not
asked for again (R315), 2 for no live thread, and 6 for the caller itself where the instruction may not act on it. TSTOP and
TSTART (R17, R307-R309) of a resident thread without SAVE. Once the thread's writes are performed (R194), TSTOP stops a ready or
sleeping thread where it stands, and a bound one, with nothing in flight, at its next instruction, whose PC and g1-g4 its record
keeps while its context is freed; until then it waits; TSTART makes a stopped thread ready again with FAULTED clear. Other states answer
1. -/
def Obligations.TargetChecksAndStops : Prop :=
  (∀ (s : State) (d a b : GReg) (mask : BitVec 5),
     let x := s.g a;
     let id : W32 := x.setWidth 32;
     let bad := bitsOf x 32 32 ≠ 0 ∨ bitsOf x 27 4 ≠ 0 ∨ (x.getLsbD 31 = true ∧ bitsOf x 0 8 ≠ 0);
     let inPart := (s.part s.me.part).bulks.contains (tidBulk id);
     let checks (i : Instr) (rights : List Nat) (f4 : Nat) (self : Bool) (answers : Word → Prop) : Prop :=
       let may : Prop := s.cc.begun = true ∨ ∀ x ∈ rights, s.holds x id = true;
       (bad → answers 8#64) ∧
       (¬bad → inPart = false → answers 3#64) ∧
       (∀ right, ¬bad → inPart = true → s.cc.begun = false → rights.find? (fun x => !s.holds x id) = some right →
         exec i s = .next (s.fault 0x51 x (BitVec.ofNat 64 (right + f4 * 256)))) ∧
       (¬bad → inPart = true → may → s.target x = none → answers 2#64) ∧
       (∀ r, ¬bad → inPart = true → may → s.target x = some r → r.tid = s.tid → self = false → answers 6#64);
     let reg (i : Instr) (w : Word) : Prop := WritesG i s 4 d w;
     let late (i : Instr) (w : Word) : Prop := ∃ t, exec i s = .next t ∧ Quiet s t ∧ Lands s t 4 (.g d.toNat) (.valueG w);
     checks (.tstop d a) [0] 0 false (reg (.tstop d a)) ∧ checks (.tstart d a) [1] 1 false (reg (.tstart d a)) ∧
     checks (.tread d a b) [2] 2 true (late (.tread d a b)) ∧
     checks (.twrite mask d a b) (if mask.getLsbD 1 then [3, 6] else [3]) 3 false (reg (.twrite mask d a b)) ∧
     checks (.treap d a) [5] 4 false (reg (.treap d a)) ∧ checks (.tstat d a) [2] 5 true (reg (.tstat d a))) ∧
  ∀ (s : State) (d a : GReg) (r : Rec),
    let may (right : Nat) : Prop := targetBad (s.g a) = false ∧ s.holds right ((s.g a).setWidth 32) = true ∧
      s.target (s.g a) = some r ∧ s.findRec r.tid = some r ∧ s.resident r.tid = true ∧ r.tid ≠ s.tid ∧ r.save = false
    (may rSTOP →
      (r.state = .stopped ∨ r.state = .retired → WritesG (.tstop d a) s 4 d 1#64) ∧
      (r.state = .ready ∨ r.state = .sleeping → s.writesOut r.part .part = true → Acts (.tstop d a) s fun t =>
        t.cc.wait ≠ .none_ ∧ t.cc.pc = s.cc.pc ∧ t.cc.regs = s.cc.regs ∧ t.findRec r.tid = some r) ∧
      (r.state = .ready ∨ r.state = .sleeping → r.sendwait = false → s.writesOut r.part .part = false →
        Answers (.tstop d a) s d 0#64 fun t =>
        ∃ q, t.findRec r.tid = some q ∧ q.state = .stopped ∧ q.pc = r.pc ∧ q.g1 = r.g1 ∧ q.faulted = false ∧ q.deadline = none) ∧
      (∀ k c, r.state = .bound → r.saved = false → r.place = some (k, c) → (k, c) ≠ s.cur → (s.ctx k c).tid = r.tid →
        (s.ctx k c).inflight = [] → (s.ctx k c).stop = none → (s.ctx k c).susp = none → (s.ctx k c).wait = .none_ →
        s.writesOut r.part .part = false →
        ∃ t q, exec (.tstop d a) s = .next t ∧ t.mem = s.mem ∧ (Retired s t 4 fun x => x.setG d.toNat 0#64) ∧
          (t.ctx k c).bound = false ∧ t.findRec r.tid = some q ∧ q.state = .stopped ∧ q.faulted = false ∧
          q.pc = canon (s.ctx k c).stopPc ∧ q.g1 = (s.ctx k c).regs.getG 1 ∧ q.g2 = (s.ctx k c).regs.getG 2 ∧
          q.g3 = (s.ctx k c).regs.getG 3 ∧ q.g4 = (s.ctx k c).regs.getG 4)) ∧
    (may rSTART →
      (r.state ≠ .stopped → r.state ≠ .spilled → WritesG (.tstart d a) s 4 d 1#64) ∧
      (r.state = .stopped → Answers (.tstart d a) s d 0#64 fun t =>
        ∃ q, t.findRec r.tid = some q ∧ q.state = .ready ∧ q.faulted = false ∧ q.pc = r.pc ∧ q.g1 = r.g1 ∧ q.g2 = r.g2 ∧
          q.g3 = r.g3 ∧ q.g4 = r.g4 ∧ q.deliver = false))

/-- TREAD, TREAD.tab and TREAD.log (R310): the record with its armed count, the table's sixteen entries, or the violation log is
copied to the blocks at g(b), and status 0 lands in g(d); no other byte changes. The performance counters (R373): without the
right over its core the thread stops with 0x51, and with a counter number of four or more with 0x0e; PCRD and PCRD.ctl read the
counter's value (as before the core's present cycle) and control word; PCSET writes a control word within the limits and clears the
value; PCSET.val writes the value. No other counter changes. -/
def Obligations.ReadAndCounterResults : Prop :=
  (∀ (s : State) (d a b : GReg) (K : Nat → Nat),
     let n := (s.g a).toNat;
     let copies (i : Instr) (bs : List Byte) : Prop :=
       (∀ j, j < bs.length / 64 → s.reaches s.ag (Acc.vstore 64) (s.g b + BitVec.ofNat 64 (64 * j)) (.mem (K j)) ∧
         isHostKey (K j) = false ∧ ∀ j', j' < j → K j' + 64 ≤ K j ∨ K j + 64 ≤ K j') →
       ∃ t, exec i s = .next t ∧ Lands s t 4 (.g d.toNat) (.valueG 0#64) ∧
         (∀ j, j < bs.length / 64 → t.mem.bytes (K j) 64 = (bs.drop (64 * j)).take 64) ∧
         (∀ x, (∀ j, j < bs.length / 64 → x < K j ∨ K j + 64 ≤ x) → t.mem.byte x = s.mem.byte x) ∧
         (∀ x, t.mem.full x = s.mem.full x) ∧ t.pf = s.pf;
     let late (i : Instr) (w : Word) : Prop := ∃ t, exec i s = .next t ∧ Quiet s t ∧ Lands s t 4 (.g d.toNat) (.valueG w);
     (∀ r, targetBad (s.g a) = false → s.holds rREAD ((s.g a).setWidth 32) = true → s.target (s.g a) = some r →
       copies (.tread d a b) (r.bytes (s.armed r.tid))) ∧
     (1024 ≤ n → late (.treadTab d a b) 8#64) ∧
     (n < 1024 → n = s.me.table.toNat ∨ s.holdsAll rGRANT = true →
       copies (.treadTab d a b) ((List.range 16).flatMap fun e => leBytes 16 (s.authEntry s.me.part n e).toNat)) ∧
     (n < 1024 → n ≠ s.me.table.toNat → s.cc.begun = false → s.holdsAll rGRANT = false →
       exec (.treadTab d a b) s = .next (s.fault 0x51 (s.g a) (BitVec.ofNat 64 (6 + 2 * 256)))) ∧
     (64 ≤ n → late (.treadLog d a b) 8#64) ∧
     (n < 64 → n ∉ (s.part s.me.part).bulks → late (.treadLog d a b) 3#64) ∧
     (n < 64 → n ∈ (s.part s.me.part).bulks → (s.myTable.any fun x => grants x rREAD && coversBulk x n) = true →
       copies (.treadLog d a b) (s.bulk n).logBytes)) ∧
  ∀ (s : State) (d a b : GReg),
    let n := (s.g a).toNat
    let x := s.pcGet n
    let w := s.g b
    let E := bitsOf w 0 8
    let bad := bitsOf w 8 8 ≠ 0 ∨ bitsOf w 32 31 ≠ 0 ∨ 17 < E ∨
      (isDeep s.cur.1 = true ∧ (E ∈ [3, 4, 12, 13, 14, 15] ∨ bitsOf w 20 12 ≠ 0))
    let sets (i : Instr) (c : PerfCtr) : Prop := ∃ t, exec i s = .next t ∧ Quiet s t ∧ (Retired s t 4 fun r => r) ∧ t.pcGet n = c ∧
      ∀ m, m ≠ n → t.pcGet m = s.pcGet m
    let stop (right f : Nat) (i : Instr) : Prop := exec i s = .next (s.fault 0x51 (s.g a) (BitVec.ofNat 64 (right + f * 256)))
    let wrong (v : Word) (f op : Nat) (i : Instr) : Prop := exec i s = .next (s.fault 0x0e v (BitVec.ofNat 64 (f + 16 * op)))
    (s.holdsCore rREAD = false → stop 2 4 (.pcrd d a) ∧ stop 2 4 (.pcrdCtl d a)) ∧
    (s.holdsCore rWRITE = false → stop 3 5 (.pcset a b) ∧ stop 3 5 (.pcsetVal a b)) ∧
    (s.holdsCore rREAD = true → 4 ≤ n → wrong (s.g a) 4 0 (.pcrd d a) ∧ wrong (s.g a) 4 0 (.pcrdCtl d a)) ∧
    (s.holdsCore rWRITE = true → 4 ≤ n → wrong (s.g a) 5 0 (.pcset a b) ∧ wrong (s.g a) 5 0 (.pcsetVal a b)) ∧
    (s.holdsCore rREAD = true → n < 4 →
      WritesG (.pcrd d a) s 4 d (s.pcWas n).value ∧ WritesG (.pcrdCtl d a) s 4 d x.ctl) ∧
    (s.holdsCore rWRITE = true → n < 4 →
      (bad → wrong w 5 1 (.pcset a b)) ∧
      (¬bad → sets (.pcset a b) { value := 0#64, ctl := w }) ∧
      sets (.pcsetVal a b) { x with value := w })

/-- TWRITE, TWRITE.tab, TREAP and TSTAT (R311-R314): TWRITE answers 4 for a bound thread and 8 for a field out of its limits,
and else gives the record the image's fields that its mask selects; TWRITE.tab sets the named entry of the named table; TREAP
answers 7 for a steward, 1 for a thread that is not stopped or retired, and else frees the record; TSTAT reads the record's
state. -/
def Obligations.WriteReapStat : Prop :=
  ∀ (s : State) (d a b : GReg) (mask : BitVec 5) (r : Rec) (pl : Place),
    let may (right : Nat) : Prop := targetBad (s.g a) = false ∧ s.holds right ((s.g a).setWidth 32) = true ∧
      s.target (s.g a) = some r ∧ s.findRec r.tid = some r ∧ s.resident r.tid = true
    let readable (n : Nat) : Prop := s.reaches s.ag (Acc.load n) (s.g b) pl ∧ pl.linked = false ∧ s.placePoison pl n = false
    let bs := s.readPlace s.me.part pl 64
    let kept : State → Prop := fun t => t.findRec r.tid = some r
    (may rWRITE → r.tid ≠ s.tid → readable 64 → mask.getLsbD 1 = false ∨ s.holds rGRANT r.tid = true →
      (r.state = .bound → Answers (.twrite mask d a b) s d 4#64 kept) ∧
      (r.state ≠ .bound → r.twriteBad mask bs = true → Answers (.twrite mask d a b) s d 8#64 kept) ∧
      (r.state ≠ .bound → r.twriteBad mask bs = false → Answers (.twrite mask d a b) s d 0#64 fun t => ∃ q,
        t.findRec r.tid = some q ∧ q.tid = r.tid ∧ q.state = r.state ∧ q.vf = r.vf ∧ q.deep = r.deep ∧
        (q.pc = if mask.getLsbD 0 then canon (wordAt bs 0) else r.pc) ∧
        (q.prio.toNat = if mask.getLsbD 0 then bitsOf (wordAt bs 0) 57 2 else r.prio.toNat) ∧
        (q.roam = if mask.getLsbD 0 then (wordAt bs 0).getLsbD 59 else r.roam) ∧
        (q.table.toNat = if mask.getLsbD 1 then fieldAt bs 0x0c 2 else r.table.toNat) ∧
        (q.faultLine = if mask.getLsbD 3 then wordAt bs 0x10 else r.faultLine) ∧
        (q.inbox = if mask.getLsbD 3 then wordAt bs 0x18 else r.inbox) ∧
        (q.g1 = if mask.getLsbD 4 then wordAt bs 0x20 else r.g1) ∧ (q.g2 = if mask.getLsbD 4 then wordAt bs 0x28 else r.g2) ∧
        (q.g3 = if mask.getLsbD 4 then wordAt bs 0x30 else r.g3) ∧ (q.g4 = if mask.getLsbD 4 then wordAt bs 0x38 else r.g4))) ∧
    (readable 16 →
      let x : BitVec 128 := BitVec.ofNat 128 (leNat (s.readPlace s.me.part pl 16))
      let w := s.g a
      bitsOf w 10 6 = 0 → bitsOf w 20 44 = 0 → (s.part s.me.part).authBad x = false → s.holdsAll rGRANT = true →
      authRights x &&& s.grantable = authRights x →
      Answers (.twriteTab d a b) s d 0#64 fun t => t.authEntry s.me.part (bitsOf w 0 10) (bitsOf w 16 4) = x ∧
        ∀ n e, e < 16 → (n, e) ≠ (bitsOf w 0 10, bitsOf w 16 4) → t.authEntry s.me.part n e = s.authEntry s.me.part n e) ∧
    (may rREAP → r.tid ≠ s.tid →
      (tidSlot r.tid = 0 → WritesG (.treap d a) s 4 d 7#64) ∧
      (tidSlot r.tid ≠ 0 → r.state ≠ .stopped → r.state ≠ .retired → r.state ≠ .spilled → WritesG (.treap d a) s 4 d 1#64) ∧
      (tidSlot r.tid ≠ 0 → r.state = .stopped ∨ r.state = .retired → (∀ q ∈ (s.bulk (tidBulk r.tid)).shallows, q.tid ≠ r.tid) →
        (∀ g x, g < 64 → x ∈ s.mems r.part g → x.tid ≠ r.tid) →
        Answers (.treap d a) s d 0#64 fun t => t.findRec r.tid = none ∧ t.watchesOf r.tid = [])) ∧
    (may rREAD → ∃ w : Word, WritesG (.tstat d a) s 4 d w ∧ bitsOf w 0 8 = 0 ∧ bitsOf w 8 4 = r.state.code ∧
      bitsOf w 12 2 = r.spillKind.toNat ∧ w.getLsbD 14 = r.faulted ∧ w.getLsbD 15 = r.sendwait ∧
      (s.armed r.tid < 8 → bitsOf w 16 3 = s.armed r.tid ∧ bitsOf w 19 4 = r.pending.toNat) ∧
      (s.armed r.tid < 8 → r.vf < 256 → s.coreField r.part ((r.place.getD (0, 0)).1) < 65536 →
        w.getLsbD 23 = !s.vfRuns r.part r.vf ∧ bitsOf w 24 8 = r.vf ∧
        bitsOf w 32 16 = (match r.state, r.place with | .bound, some (k, _) => s.coreField r.part k | _, _ => 0xffff) ∧
        bitsOf w 48 8 = (tidGen r.tid).toNat))

/-- SVC (R294), where no notice is due and checks 1, 2, 5 to 7 of R160 lead the reply line to a place: the first status that
applies is g(d). A call made writes "called" to the reply line, puts the request with its sequence number into the ring at HEAD,
moves SEQ and HEAD on, and suspends the thread (here with no result of it on its way and every write of its partition performed
at part scope, R19, R194), with a watch on the reply line whose number its g(d) receives. -/
def Obligations.ServiceCalls : Prop :=
  ∀ (s : State) (d a b : GReg) (pl : Place), (s.locate s.ag Acc.wprobe (s.g b)).1 = .ok pl → (s.part s.me.part).notices = [] →
    let p := s.me.part
    let x := s.svcDesc p
    let full := x.bad = true ∨ 2 ^ x.k ≤ (x.head + 2 ^ 32 - x.tail) % 2 ^ 32
    let s1 := 0xfffd < (s.g a).toNat ∨ (s.g b).toNat % 64 ≠ 0 ∨ homeKey pl = none
    let s2 := 4 ≤ (s.watchesOf s.tid).length
    let s3 := 1024 ≤ (s.core (tidCore s.tid)).watches.length
    let answers (w : Word) : Prop := Answers (.svc d a b) s d w fun t => t.watchesOf s.tid = s.watchesOf s.tid
    (s1 → answers 0x84#64) ∧ (¬s1 → s2 → answers 0x80#64) ∧ (¬s1 → ¬s2 → s3 → answers 0x81#64) ∧
    (¬s1 → ¬s2 → ¬s3 → full → answers 0x83#64) ∧
    ∀ k, ¬s1 → ¬s2 → ¬s3 → ¬full → pl = .mem k →
      let l := s.locate s.ag Acc.wprobe (s.g b)
      (l.2.checkPlace l.2.ag (Acc.store 8) pl).1 = .ok pl →
      let kd := s.areaKey p 0x78
      let ke := s.svcEntry p x x.head
      let apart (i j : Nat) : Prop := i + 64 ≤ j ∨ j + 64 ≤ i
      k % 64 = 0 → isHostKey k = false → isHostKey (kd + 0x20) = false → isHostKey (kd + 0x10) = false → isHostKey ke = false →
      apart k kd → apart k ke → apart kd ke →
      s.resident s.tid = true → s.findRec s.tid = some s.me → s.cc.inflight = [] →
      s.writesOut p .part = false →
      ∃ t q n, exec (.svc d a b) s = .next t ∧ t.mem.num k 8 = 0xffffffff ∧
        t.mem.bytes ke 64 = leBytes 8 ((s.g a).toNat + s.me.vf % 256 * 2 ^ 16 + s.tid.toNat * 2 ^ 32) ++
          leBytes 8 (s.g b).toNat ++ leBytes 8 x.seq ++ leBytes 8 (s.tsOf p) ++ leBytes 8 (s.e 0).toNat ++
          leBytes 8 (s.e 1).toNat ++ leBytes 8 (s.e 2).toNat ++ leBytes 8 0 ∧
        t.mem.num (kd + 0x20) 8 = (x.seq + 1) % 2 ^ 64 ∧ t.mem.num (kd + 0x10) 4 = (x.head + 1) % 2 ^ 32 ∧
        (∀ y, (y < k ∨ k + 8 ≤ y) → (y < ke ∨ ke + 64 ≤ y) → (y < kd + 0x10 ∨ kd + 0x14 ≤ y) →
          (y < kd + 0x20 ∨ kd + 0x28 ≤ y) → t.mem.byte y = s.mem.byte y) ∧ t.pf = s.pf ∧
        (t.ctx s.cur.1 s.cur.2).bound = false ∧ t.findRec s.tid = some q ∧ (q.state = .sleeping ∨ q.state = .ready) ∧
        q.pc = canon (s.pc + 4#64) ∧ q.g1 = s.g 1#5 ∧ q.deliver = true ∧ q.result = some (d.toNat, BitVec.ofNat 64 n) ∧ n < 4 ∧
        ∃ w ∈ t.watchesOf s.tid, w.line = k / 64 ∧ w.num % 4 = n

/-- PREEMPT and PREEMPT.wd (R291, R302, R335, R339): without a PREEMPT entry of KIND 4 the thread stops with 0x51, and with
operand g(b) or e0 out of its limits with 0x0e, with g(b) in the near-tarn alias on a deep core with 0x06; then the first status
that applies is g(d). A request accepted is pending with
its time, its VF, whether it is cooperative and its status line; a withdrawal writes status 1, the count of arrivals and zeros, FORCED among them (no context is forced before S), to
the status line and ends it, and waits while a write of the partition is not performed at sys scope. The model's choices: 0x51 comes
before 0x0e and 0x06 (log 58), and a withdrawal whose status line fails a check still ends the switch with status 0 (log 34). -/
def Obligations.PreemptResults : Prop :=
  ∀ (s : State) (d a b : GReg),
    let p := s.me.part
    let x := s.part p
    let vf := bitsOf (s.e 0) 0 8
    let T := (s.g a).toNat
    let now := s.tsOf p
    let e := s.vfEntry p vf
    let can := s.holdsAll rPREEMPT = true
    let badB := canonical (s.g b) = false ∨ (s.g b).toNat % 64 ≠ 0
    let badE := (s.e 0).toNat / 512 ≠ 0
    let nearB := isDeep s.cur.1 = true ∧ nearAlias (s.g b) = true
    let good := can ∧ ¬badB ∧ ¬nearB ∧ ¬badE
    let known := x.owns vf = true ∧ e.getLsbD 0 = true ∧ e.getLsbD 1 = true
    let late := T < now + 256 ∨ now + 2 ^ 40 < T
    (¬can → exec (.preempt d a b) s = .next (s.fault 0x51 (s.g a) (BitVec.ofNat 64 (7 + 3 * 256)))) ∧
    (¬can → s.cc.begun = false →
      exec (.preemptWd d) s = .next (s.fault 0x51 0#64 (BitVec.ofNat 64 (7 + 3 * 256)))) ∧
    (can → badB → exec (.preempt d a b) s = .next (s.fault 0x0e (s.g b) (BitVec.ofNat 64 (3 + 16 * 1)))) ∧
    (can → ¬badB → nearB → exec (.preempt d a b) s = .next (s.fault 0x06 (s.g b) 0#64)) ∧
    (can → ¬badB → ¬nearB → badE → exec (.preempt d a b) s = .next (s.fault 0x0e (s.e 0) (BitVec.ofNat 64 (3 + 16 * 2)))) ∧
    (good → x.switch ≠ none → WritesG (.preempt d a b) s 4 d 1#64) ∧
    (good → x.switch = none → ¬known → WritesG (.preempt d a b) s 4 d 2#64) ∧
    (good → x.switch = none → known → x.running = some vf → WritesG (.preempt d a b) s 4 d 3#64) ∧
    (good → x.switch = none → known → x.running ≠ some vf → late → WritesG (.preempt d a b) s 4 d 4#64) ∧
    (good → x.switch = none → known → x.running ≠ some vf → ¬late → Answers (.preempt d a b) s d 0#64 fun t =>
      ∃ w, (t.part p).switch = some w ∧ w.vf = vf ∧ w.at_ = T ∧ w.coop = (s.e 0).getLsbD 8 ∧ w.line = s.g b ∧ w.begun = none ∧
        w.arrived = 0 ∧ w.forced = 0 ∧ (t.part p).running = x.running) ∧
    (can → x.switch = none → WritesG (.preemptWd d) s 4 d 1#64) ∧
    (∀ w, can → x.switch = some w → (w.begun ≠ none ∨ w.at_ ≤ now → WritesG (.preemptWd d) s 4 d 2#64) ∧
      (w.begun = none → now < w.at_ →
        let r := (s.access (w.agent p (.ctx s.cur.1 s.cur.2)) (Acc.store 8) w.line).1
        (∀ c y, r = .fault c y → ∃ t, exec (.preemptWd d) s = .next t ∧ (t.part p).switch = none ∧
          Retired s t 4 fun q => q.setG d.toNat 0#64) ∧
        (∀ pl, r = .ok pl → s.writesOut p .sys = true →
          Acts (.preemptWd d) s fun t => (t.part p).switch = some w ∧ t.pc = s.pc ∧ t.cc.regs = s.cc.regs) ∧
        (∀ k, r = .ok (.mem k) → isHostKey k = false → isHostKey (k + 63) = false → s.writesOut p .sys = false → w.forced = 0 →
          ∃ t, exec (.preemptWd d) s = .next t ∧ (t.part p).switch = none ∧ (Retired s t 4 fun q => q.setG d.toNat 0#64) ∧
            t.mem.bytes k 64 = leBytes 8 1 ++ leBytes 8 (w.arrived % 2 ^ 32) ++
              List.replicate 48 0#8 ∧
            ∀ y, y < k ∨ k + 64 ≤ y → t.mem.byte y = s.mem.byte y)))

/-- CODEMAP and CODEMAP.rel (R337, R338), and the three XLINV (R336): each stops without its authority or with an operand out of
its limits, and else answers its status. CODEMAP hands its operands to the idle scanner; CODEMAP.rel unregisters a range; an
XLINV removes every entry that it names from every translation cache, and answers once what was translated under those PASIDs
before it is performed. That 0x51 comes before every operand fault 0x0e and 0x06 is the model's choice (log 58): R302 and R335 give no
order. -/
def Obligations.CodemapAndXlinv : Prop :=
  ∀ (s : State) (d a b : GReg),
    let p := s.me.part
    let x := s.part p
    let may := s.holdsAll rWRITE = true
    let pasid := s.pasid p s.me.vf
    let mine := x.ranges.find? fun r => r.pasid == pasid && r.base == (s.g a).toNat
    let badA := canonical (s.g a) = false ∨ (s.g a).toNat % 64 ≠ 0
    let stop (w : Word) (f op : Nat) : State := s.fault 0x0e w (BitVec.ofNat 64 (f + 16 * op))
    (¬may → exec (.codemap d a) s = .next (s.fault 0x51 (s.g a) (BitVec.ofNat 64 (3 + 1 * 256))) ∧
      exec (.codemapRel d a) s = .next (s.fault 0x51 (s.g a) (BitVec.ofNat 64 (3 + 1 * 256)))) ∧
    (¬may → s.cc.begun = false → exec (.xlinvAll d) s = .next (s.fault 0x51 0#64 (BitVec.ofNat 64 (3 + 2 * 256)))) ∧
    (may → badA → exec (.codemap d a) s = .next (stop (s.g a) 1 0)) ∧
    (∀ y, may → ¬badA → s.deepAlias [s.g a, s.e 0, s.e 2] = some y → exec (.codemap d a) s = .next (s.fault 0x06 y 0#64)) ∧
    (∀ pl, may → ¬badA → s.deepAlias [s.g a, s.e 0, s.e 2] = none →
      (s.locate s.ag (Acc.vstore 64) (s.g a)).1 = .ok pl → x.scan = none →
      Answers (.codemap d a) s d 0#64 fun t => ∃ c, (t.part p).scan = some c ∧ c.base = (s.e 0).toNat ∧ c.len = (s.e 1).toNat ∧
        c.bitmap = (s.e 2).toNat ∧ c.status = s.g a ∧ c.pasid = pasid ∧ c.boot = false ∧ c.result = none ∧ c.pages = [] ∧
        (t.part p).ranges = x.ranges) ∧
    (may →
      let scans := ∃ c, x.scan = some c ∧ c.pasid = pasid ∧ c.base = (s.g a).toNat
      (scans → WritesG (.codemapRel d a) s 4 d 3#64) ∧
      (∀ r, ¬scans → mine = some r → r.boot = true → WritesG (.codemapRel d a) s 4 d 2#64) ∧
      (∀ r, ¬scans → mine = some r → r.boot = false → Answers (.codemapRel d a) s d 0#64 fun t =>
        (t.part p).ranges = (x.ranges.filter fun y => y ≠ r) ∧
        ∀ k l, k / 32 ∈ x.bulks → l / 1024 ∈ r.pages → ∀ y ∈ (t.core k).l1i, y.1 ≠ l) ∧
      (¬scans → mine = none → WritesG (.codemapRel d a) s 4 d 1#64)) ∧
    (let A := (s.g a).toNat
     let B := (s.g b).toNat
     let gone (i : Instr) (of : Nat → Bool) (f : TlbEntry → Prop) : Prop :=
      let removed (t : State) : Prop := ∀ b ∈ x.bulks, ∀ y, y ∈ (t.bulk b).tlb ↔ y ∈ (s.bulk b).tlb ∧ ¬f y
      ((∀ n, s.cc.wait ≠ .drain n) →
        (s.drained p of s.opSeq = true → Answers i s d 0#64 removed) ∧
        (s.drained p of s.opSeq = false → Acts i s fun t =>
          removed t ∧ t.pc = s.pc ∧ t.cc.regs = s.cc.regs ∧ t.cc.wait = .drain s.opSeq)) ∧
      (∀ n, s.cc.wait = .drain n → (s.drained p of n = true → Answers i s d 0#64 fun _ => True) ∧
        (s.drained p of n = false → exec i s = .next s));
    (A % 65536 ≠ 0 → exec (.xlinv d a b) s = .next (stop (s.g a) 2 0)) ∧
    (A % 65536 = 0 → B % 65536 ≠ 0 ∨ B = 0 → exec (.xlinv d a b) s = .next (stop (s.g b) 2 1)) ∧
    (A % 65536 = 0 → B % 65536 = 0 → B ≠ 0 → gone (.xlinv d a b) (· == pasid) fun y =>
      y.pasid = pasid ∧ y.vpage < A / 65536 + B / 65536 ∧ A / 65536 < y.vpage + y.pages) ∧
    gone (.xlinvVf d) (· == pasid) (fun y => y.pasid = pasid) ∧ (may → gone (.xlinvAll d) (fun _ => true) fun _ => True))

/-- Taking a fault (R17, R65, R316, R317, R319, R320), by a thread with no producer in flight, its partition's writes
performed at part scope (R194), whose fault line passes its checks on the device, with the summary line free at its home (R151, R352): the record is written at the line with the next SEQ, after the stop block when SAVE is set; the home core's
summary line takes the thread's bit and one more in COUNT; the record is stopped and FAULTED with PC and g1-g4 as at the
instruction; the context is free; and no other byte changes. -/
def Obligations.FaultsStopTheThread : Prop :=
  ∀ (s : State) (code : Nat) (addr detail : Word) (k : Nat), code < 256 → s.cc.inflight = [] →
    s.writesOut s.me.part .part = false →
    (∀ n, s.cc.susp ≠ some (.send n)) → s.resident s.tid = true → s.findRec s.tid = some s.me →
    let r := s.me
    let n := if r.save then 4096 else 64
    let p := r.part
    let ks := (s.part p).dpaKey ((s.desc p 0x80).toNat + 64 * (s.part p).flatCore (tidCore s.tid))
    (∀ f : Ctx → Ctx, ((s.modCur f).access { s.ag with holder := .record r.faultLine.toNat 0 } { Acc.vstore 64 with n := n }
      r.faultLine).1 = .ok (.mem k)) →
    isHostKey k = false → (k + n ≤ ks ∨ ks + 64 ≤ k) → (s.unitReady ks 0x28).1 = true →
    let t := s.fault code addr detail
    let seq := s.mem.num (k + 4) 4 + 1
    let i := ks + tidSlot s.tid / 8
    t.mem.bytes k 64 = leBytes 8 (code + (if r.save then 0x400 else 0) + seq % 2 ^ 32 * 2 ^ 32) ++ leBytes 8 s.tid.toNat ++
      leBytes 8 s.cc.stopPc.toNat ++ leBytes 8 addr.toNat ++ leBytes 8 detail.toNat ++ leBytes 8 (s.tsOf p % 2 ^ 64) ++
      leBytes 8 (r.vf % 256 + s.coreField p s.cur.1 % 65536 * 65536) ++ leBytes 8 0 ∧
    (r.save = true → t.mem.bytes (k + 0x40) 0xfc0 = s.cc.regs.stopBytes) ∧
    t.mem.byte i = (s.mem.byte i ||| BitVec.ofNat 8 (2 ^ (tidSlot s.tid % 8))) ∧
    t.mem.num (ks + 0x20) 8 = (s.mem.num (ks + 0x20) 8 + 1) % 2 ^ 64 ∧
    (∀ a, (a < k ∨ k + n ≤ a) → a ≠ i → (a < ks + 0x20 ∨ ks + 0x28 ≤ a) → t.mem.byte a = s.mem.byte a) ∧ t.pf = s.pf ∧
    (t.ctx s.cur.1 s.cur.2).bound = false ∧
    ∃ q, t.findRec s.tid = some q ∧ q.state = .stopped ∧ q.faulted = true ∧ q.pc = canon s.cc.stopPc ∧ q.g1 = s.g 1#5 ∧
      q.g2 = s.g 2#5 ∧ q.g3 = s.g 3#5 ∧ q.g4 = s.g 4#5 ∧ q.deadline = none

/-- Events of records: BIND (R18, R21-R23, R251, R262), PRIORITY_PROMOTION (R250), SLEEP_DEADLINE (R261), WATCH_WAKE and
COARSE_WAKE (R158, R260), SUSPENSION_COMPLETE (R19) and STOP_COMPLETE (R17, R65; these two once the thread's writes are performed, R194): where its condition holds, each completes with
its record changed as the rule says, and memory as before. -/
def Obligations.ThreadEvents : Prop :=
  ∀ (s : State) (core ctx n : Nat) (tid : W32) (r : Rec), s.findRec tid = some r →
    (s.resident tid = false → r.state = .spilled ∧ ∀ q ∈ (s.bulk (tidBulk tid)).shallows, q.tid = tid → q = r) →
    let x := s.ctx core ctx
    let barrel := isDeep core = false ∧ core % 32 < 24 ∧ (s.unit (coreUnit core)).gated = false
    let picked := (isDeep core = true ∧ ctx < 4 ∧ ∃ l, s.bestHead (coreUnit core) = some (l, tid)) ∨
      (barrel ∧ ctx = 0 ∧ r = s.slotRec core 0 ∧ r.tid = tid ∧ r.state = .ready) ∨
      (barrel ∧ 1 ≤ ctx ∧ ctx < 16 ∧ s.takesNext core = true ∧ s.barrelPick core = some tid ∧ s.atSwitch r.part r.vf = false)
    let mask : Word := BitVec.ofNat 64 (r.pending.toNat + (if r.wokeDeadline then 16 else 0) + (if r.wokeWake then 32 else 0) +
      if r.wokeCoarse then 64 else 0)
    let becomes (t : State) (P : Rec → Prop) : Prop := ∃ q, t.findRec tid = some q ∧ P q
    let resident := s.resident tid = true
    (x.bound = false → (s.partOf (core / 32)).isSome = true → picked → Acts (.bind core ctx) s fun t =>
      (t.ctx core ctx).bound = true ∧ (t.ctx core ctx).tid = tid ∧ (t.ctx core ctx).pc = canon r.pc ∧
      (t.ctx core ctx).inflight = [] ∧ (r.image = none → r.result = none →
        (t.ctx core ctx).regs.getG 1 = r.g1 ∧ (t.ctx core ctx).regs.getG 2 = r.g2 ∧ (t.ctx core ctx).regs.getG 3 = r.g3 ∧
        (t.ctx core ctx).regs.getG 4 = r.g4 ∧ (t.ctx core ctx).regs.getG 5 = if r.deliver then mask else 0#64) ∧
      becomes t fun q => q.state = .bound ∧ q.place = some (core, ctx) ∧ (r.deliver = true → q.pending = 0#4)) ∧
    (r.state = .ready → s.recRuns r = true → r.level < 3 → r.since + 4096 ≤ s.ts → resident →
      Acts (.priorityPromotion tid) s fun t => becomes t (fun q => q.level = r.level + 1 ∧ q.since = s.ts ∧ q.state = .ready) ∧
        (tidSlot tid ≠ 0 → tid ∈ (t.unit r.queueUnit).level (r.level + 1))) ∧
    (∀ d, r.deadline = some d → r.wakeable = true → d ≤ s.tsOf r.part → Acts (.sleepDeadline tid) s fun t =>
      becomes t fun q => q.wokeDeadline = true ∧ q.deadline = none ∧ q.pending = r.pending ∧ (resident → q.state = .ready) ∧
        q.wakeable = false) ∧
    (n < 4 → (∃ w ∈ s.watchesOf tid, w.num = n) → Acts (.watchWake tid n) s fun t =>
      becomes t fun q => q.pending = (r.pending ||| BitVec.ofNat 4 (2 ^ n)) ∧
        (r.wakeable = false → q.state = r.state) ∧ (r.wakeable = true → resident → q.state = .ready) ∧ q.wakeable = false) ∧
    (∀ w, w ∈ s.watchesOf tid → w.coarse = true → w.home = n → w.num < 4 → resident →
      (∀ q ∈ (s.bulk (tidBulk tid)).shallows, q.tid ≠ tid) → Acts (.coarseWake n) s fun t =>
      becomes t fun q => q.wokeCoarse = true ∧ q.pending.getLsbD w.num = true ∧ q.wakeable = false) ∧
    (x.tid = tid → x.inflight = [] → s.writesOut r.part .part = false → x.stop = none → resident →
      let ends (u : Susp) (P : Rec → Prop) : Prop := x.susp = some u → Acts (.suspensionComplete core ctx) s fun t =>
        (t.ctx core ctx).bound = false ∧ becomes t fun q => q.pc = canon x.pc ∧ q.g1 = x.regs.getG 1 ∧ q.g2 = x.regs.getG 2 ∧
          q.g3 = x.regs.getG 3 ∧ q.g4 = x.regs.getG 4 ∧ P q;
      (r.pending = 0#4 → ends (.sleep none) fun q => q.state = .sleeping ∧ q.deadline = none ∧ q.deliver = true) ∧
      (∀ d, r.pending = 0#4 → s.tsOf r.part < d →
        ends (.sleep (some d)) fun q => q.state = .sleeping ∧ q.deadline = some d ∧ q.deliver = true) ∧
      (∀ d v, r.pending = 0#4 → ends (.svc d v) fun q => q.state = .sleeping ∧ q.result = some (d, BitVec.ofNat 64 v)) ∧
      (∀ m, m < 6 → ends (.migrate m) fun q => q.state = .ready ∧ q.migrate = some m)) ∧
    (∀ st, x.tid = tid → x.inflight = [] → s.writesOut r.part .part = false → x.stop = some st →
      st.code = none → r.save = false → resident →
      Acts (.stopComplete core ctx) s fun t => (t.ctx core ctx).bound = false ∧
        (becomes t fun q => q.state = .stopped ∧ q.faulted = false ∧ q.pc = canon st.resume ∧ q.g1 = x.regs.getG 1) ∧
        ∀ k c d, st.callers = [(k, c, d)] → (k, c) ≠ (core, ctx) →
          (t.ctx k c).regs = (s.ctx k c).regs.setG d 0#64 ∧ (t.ctx k c).pc = (s.ctx k c).pc + 4#64)

/-- Events of contexts: LONG_LATENCY_RESULT (R63) writes the producer's value and marks its register full (that of a TREAD or
a RECV once the writes are performed at part scope, R274, R310); with a faulting
producer it, or LATE_FAULT when younger instructions have retired (R318), begins the stop at that producer's PC; ONCE_POST
(R116, R117) brings a post to its context; FE_PARK_REQUEST parks a context whose word still refuses it, and WORD_WAKE ends that
(R169); SC_WINDOW_CLOSE performs the SC operation and keeps its context out of the rotation for 40 core cycles (R193). -/
def Obligations.ContextEvents : Prop :=
  ∀ (s : State) (core ctx n : Nat),
    let x := s.ctx core ctx
    let others (t : State) : Prop := ∀ k c, (k, c) ≠ (core, ctx) → t.ctx k c = s.ctx k c
    (∀ p, x.inflight[n]? = some p → x.wait ≠ .oncePost →
      (p.op = .done_ → s.writesOut (s.recOf x.tid).part .part = false) → (∃ w, p.st = .valueG w) ∨ (∃ vs, p.st = .valueV vs) →
      Acts (.longLatencyResult core ctx n) s fun t =>
        (t.ctx core ctx).regs = (x.deliver p.dest p.st).regs ∧ (t.ctx core ctx).inflight = x.inflight.eraseIdx n ∧
        (t.ctx core ctx).gEmpty = (x.mark false p.dest).gEmpty ∧ (t.ctx core ctx).vEmpty = (x.mark false p.dest).vEmpty ∧
        (t.ctx core ctx).pc = x.pc ∧ others t) ∧
    (∀ p code a d, x.inflight[n]? = some p → p.st = .fault code a d → x.stop = none →
      (∃ q, q ∈ x.inflight.eraseIdx n ∧ q.live = true) →
      let stops (i : Instr) (late : Bool) : Prop := Acts i s fun t => ∃ st, (t.ctx core ctx).stop = some st ∧ st.code = some code ∧
        st.pc = p.pc ∧ st.addr = a ∧ st.detail = d ∧ st.late = late ∧ (t.ctx core ctx).susp = none ∧
        (t.ctx core ctx).regs = x.regs ∧ (t.ctx core ctx).gEmpty = (x.mark false p.dest).gEmpty;
      (p.seq < x.retired → stops (.lateFault core ctx n) true) ∧
      (x.retired ≤ p.seq → stops (.longLatencyResult core ctx n) false)) ∧
    (∀ e, nextPost (s.unit (coreUnit core)).posts x core ctx = some e → x.bound = true → x.wait ≠ .oncePost →
      s.atSwitch (s.recOf x.tid).part (s.recOf x.tid).vf = false → Acts (.oncePost core ctx) s fun t => (t.ctx core ctx) = { x with posts := x.posts ++ [e.2.2] } ∧
        (t.unit (coreUnit core)).posts = eraseOne e (s.unit (coreUnit core)).posts ∧ others t) ∧
    (x.wait = .parkReq →
      let u := { s with cur := (core, ctx) }.modCtx core ctx fun c => { c with wait := .none_ }
      let va (a : GReg) (off : BitVec 8) : Word := u.g a + off.signExtend 64 * 8#64
      let parks (k : Nat) : Prop := ∃ t, exec (.feParkRequest core ctx) s = .next t ∧ (∀ a, t.mem.byte a = s.mem.byte a) ∧
        (∀ a, t.mem.full a = s.mem.full a) ∧ t.mem.waiter k = true ∧ (t.ctx core ctx).wait = .parked (k / 8) ∧
        (t.ctx core ctx).pc = x.pc ∧ (t.ctx core ctx).regs = x.regs ∧ t.cur = s.cur ∧ others t;
      ∀ o c d a off m k,
        (u.reaches u.ag { Acc.load 8 with write := false, fe := true } (va a off) (.mem k) → s.mem.poisoned k 8 = false →
          s.mem.full k = false →
          (u.fetch core ctx = .instr (.ldfe o c d a off) m → parks k) ∧ (u.fetch core ctx = .instr (.ldf o c d a off) m → parks k)) ∧
        (u.reaches u.ag { Acc.load 8 with write := true, fe := true } (va a off) (.mem k) → s.mem.full k = true →
          u.fetch core ctx = .instr (.stef o c d a off) m → parks k)) ∧
    (Acts (.wordWake n) s fun t => ∀ k c, t.ctx k c =
      if (s.ctx k c).wait = .parked n then { s.ctx k c with wait := .none_, feTries := 0 } else s.ctx k c) ∧
    (∀ w r q, x.wait = .scWindow w r q →
      let p := (s.recOf x.tid).part
      let u := { s with cur := (core, ctx) }.modCtx core ctx fun c =>
        { c with wait := .none_, scOpen := true, scAt := some (w, r, q), readyAt := (s.core core).cycle + 40 }
      32 * (w + 1) ≤ s.tsOf p → (∀ y ∈ s.scWaiting (s.part p).bulks, scBefore y (w, r, q) = false) →
      ∀ i m, u.fetch core ctx = .instr i m → scForm i = true →
        ∃ t, exec i u = .next t ∧ exec (.scWindowClose core ctx) s = .next { t with cur := s.cur })

/-- Events of host queues (R276-R280): DOORBELL_WRITE of a valid queue of its VF writes TAIL, wakes the queue's slot, and
records a queue without a slot as pending; SLOT_MAP and SLOT_UNMAP answer the first result that applies and map or free the
slot; with the queue's descriptor free at its home (R151, R352) SLOT_TAKE_RECORD moves HEAD on by one and accepts a good record as a
launch, or takes none where it has a status. The order of SLOT_MAP's results 1, 4, 3, and RESULT 0 for an unmap of an empty slot, are
the model's choice (log 27): R278 gives no order and does not name that unmap. -/
def Obligations.QueueEvents : Prop :=
  ∀ (s : State) (p i port vf q : Nat) (x : Word), s.rmode p = 0 → (s.part p).heldStatus = [] →
    let S := s.slot p i
    (let D := s.queueDesc p q
     let kq := s.queueKey p q
     let ka := s.areaKey p 0x70;
     s.partOf (vf / 4) = some p → q < 1024 → s.replaying p = false → D.valid = true → D.vf = vf → x.toNat < 2 ^ 32 →
      isHostKey (kq + 0x18) = false → isHostKey (ka + 128 + 8 * q) = false → isHostKey (ka + q / 8) = false →
      (kq + 0x20 ≤ ka ∨ ka + 128 + 8 * 1024 ≤ kq + 0x18) → s.homeFree (kq + 0x18) 8 →
      (s.slotOf p q = none → s.homeFree (ka + q / 8) 1) →
      ∃ t, exec (.doorbellWrite port vf q x) s = .next t ∧ t.mem.num (kq + 0x18) 8 = x.toNat ∧ t.pf = s.pf ∧
        ((∃ j, s.slotOf p q = some j) → s.keptBut t (kq + 0x18) 8) ∧
        (S.queue = some q → isDevKey (kq + 0x18) = true → kq + 0x18 = (s.part p).dpaKey ((s.desc p 0x60).toNat + 64 * q + 0x18) →
          (t.slot p i).idle = false) ∧
        (s.slotOf p q = none → (t.mem.byte (ka + q / 8)).getLsbD (q % 8) = true ∧
          ((s.mem.byte (ka + q / 8)).getLsbD (q % 8) = false → t.mem.num (ka + 128 + 8 * q) 8 = s.tsOf p % 2 ^ 64))) ∧
    (let k := s.slotKey p i
     let w := s.mem.num k 8
     let m := w % 1024
     let old := s.mem.num (k + 8) 8 % 1024
     let kp := s.areaKey p 0x70 + m / 8
     let D := s.queueDesc p m;
     let answers (e : Instr) (mq mapped result : Nat) (P : State → Prop) : Prop := ∃ t, exec e s = .next t ∧
      t.mem.num (k + 8) 8 = mq + mapped * 2 ^ 10 + result * 2 ^ 11 + s.tsOf p % 2 ^ 32 * 2 ^ 32 ∧ t.mem.num k 8 = w % 2 ^ 63 ∧
      (∀ a, a < k ∨ k + 16 ≤ a → a ≠ kp → t.mem.byte a = s.mem.byte a) ∧ t.pf = s.pf ∧ P t
     let kept (t : State) : Prop := (t.slot p i).queue = S.queue
     let is := if S.queue.isSome then 1 else 0;
     s.partRunning p = true → i < 64 → w / 2 ^ 63 = 1 → isHostKey k = false → isHostKey (k + 8) = false → isHostKey kp = false →
      (kp < k ∨ k + 16 ≤ kp) →
      (w.testBit 10 = false →
        (D.valid = false → answers (.slotMap p i) old is 1 kept) ∧
        (D.valid = true → S.queue ≠ none → answers (.slotMap p i) old 1 4 kept) ∧
        (D.valid = true → S.queue = none → s.slotOf p m ≠ none → answers (.slotMap p i) old 0 3 kept) ∧
        (D.valid = true → S.queue = none → s.slotOf p m = none → answers (.slotMap p i) m 1 0 fun t =>
          t.slot p i = { queue := some m, idle := false } ∧ (t.mem.byte kp).getLsbD (m % 8) = false)) ∧
      (w.testBit 10 = true →
        (S.queue = none → answers (.slotUnmap p i) old 0 0 kept) ∧
        (∀ u, S.queue = some u → (s.queueDesc p u).np = true → answers (.slotUnmap p i) old 1 2 kept) ∧
        (∀ u, S.queue = some u → (s.queueDesc p u).np = false → s.slotSent p i = true → answers (.slotUnmap p i) old 0 0 fun t =>
          (t.slot p i).queue = none))) ∧
    (∀ u, S.queue = some u → s.partRunning p = true → s.replaying p = false → S.idle = false → s.slotSent p i = true →
      (s.unitReady (s.queueKey p u) 64).1 = true →
      let D := s.queueDesc p u
      let kh := s.queueKey p u + 0x10
      let a := D.ring + BitVec.ofNat 64 (64 * (D.head % 2 ^ D.k))
      (2 ^ D.k < D.offered → ∃ t, exec (.slotTakeRecord p i) s = .next t ∧ (t.slot p i).idle = true ∧
        (t.part p).launches = (s.part p).launches) ∧
      ∀ k, 0 < D.offered → D.offered ≤ 2 ^ D.k → s.reaches (s.queueAgent p D.vf i) (Acc.vload 64) a (.mem k) →
        isHostKey k = false → isHostKey kh = false → s.mem.poisoned k 64 = false →
        let bs := s.mem.bytes k 64
        (s.launchStatus p D.vf bs = 0 → (s.part p).resumeDue.contains (lField bs 0x32 1) = false →
          ∃ t l, exec (.slotTakeRecord p i) s = .next t ∧ t.mem.num kh 4 = (D.head + 1) % 2 ^ 32 ∧ s.keptBut t kh 4 ∧
            l ∈ (t.part p).launches ∧ l.id = (s.part p).launchSeq ∧ l.addr = a ∧ l.vf = lField bs 0x32 1 ∧ l.slot = i ∧
            l.words = ((List.range 8).map fun j => wordAt bs (8 * j)) ∧
            l.counting = ((List.range (lField bs 0x2a 2)).map fun j => lField bs 0x28 2 + j) ∧ l.heldShares = [] ∧
            ((s.part p).running ≠ none → l.floods = l.counting)) ∧
        (s.launchStatus p D.vf bs ≠ 0 → ∃ t, exec (.slotTakeRecord p i) s = .next t ∧ (t.part p).launches = (s.part p).launches))

/-- Events of launches (R26-R29): LAUNCH_WAKE_MESSAGE takes a launch into a cluster with a free entry, and HELD_SPAWN goes on
with a core's rest; on a core with free slots for its share every thread gets its record, ready, with the fields and g1-g4 that
R27 gives; LAUNCH_COMPLETION_DECREMENT, with every write of the partition performed at sys scope (R198), takes one from the completion
counter and ends the cluster's part. -/
def Obligations.LaunchEvents : Prop :=
  ∀ (s : State) (p cl id : Nat) (l : Launch), (s.part p).notices = [] →
    let u := (s.part p).clOfFlat cl
    let core (k : Nat) : Nat := 32 * (u / 8) + 4 * (u % 8) + k
    let T := lField l.bytes 0x2c 1
    let c := cl - lField l.bytes 0x28 2
    let free (k : Nat) : Nat := ((List.range 256).filter fun j => j ≠ 0 && (s.slotRec (core k) j).state == .free).length
    let spawned (t : State) (k from_ : Nat) : Prop := ∀ j, from_ ≤ j → j < T → ∃ x q, t.findRec x = some q ∧ q.state = .ready ∧
      tidCore x = core k ∧ q.launchId = some l.id ∧ q.coord = j ∧ q.pc = l.words.getD 0 0#64 ∧ q.vf = l.vf ∧ q.part = p ∧
      q.g1 = BitVec.ofNat 64 (j + k * 2 ^ 16 + c * 2 ^ 18 +
        launchStage c (lField l.bytes 0x2a 2) (lField l.bytes 0x2d 1) * 2 ^ 30) ∧
      q.g2 = l.words.getD 1 0#64 ∧ q.g4 = l.addr ∧
      q.faultLine = l.words.getD 3 0#64 + BitVec.ofNat 64 (((c * 4 + k) * T + j) * if lSave l.bytes then 4096 else 64)
    (l.words.length = 8 → u / 8 < 64 →
      ((s.part p).launches.find? (fun x => x.floods.contains cl) = some l → (s.unit u).launches.length < 16 →
        s.atSwitch p l.vf = false → Acts (.launchWakeMessage p cl) s fun t =>
          (∀ x ∈ (t.part p).launches, x.id = l.id → cl ∉ x.floods) ∧
          (t.unit u).launches = (s.unit u).launches ++ [(l.id, 4 * T)] ∧ ∀ k, k < 4 → T ≤ free k → spawned t k 0) ∧
      (∀ k from_, k < 4 → s.partOf (u / 8) = some p →
        (s.part p).launches.find? (fun x => x.heldShares.any fun h => h.1 == core k) = some l →
        l.heldShares.find? (fun h => h.1 == core k) = some (core k, from_) → T - from_ ≤ free k →
        (s.part p).flatCl (coreUnit (core k)) = cl → Acts (.heldSpawn (core k)) s fun t =>
          spawned t k from_ ∧ ∀ x ∈ (t.part p).launches, x.id = l.id → ∀ h ∈ x.heldShares, h.1 ≠ core k)) ∧
    (let line := l.words.getD 2 0#64
     let g : Agent := { part := p, vf := l.vf, bulk := u / 8, unit := u, deep := false, engine := true, tid := 0#32,
                        holder := .decrement p id cl };
     (s.part p).launches.find? (fun x => x.id == id) = some l → cl ∈ l.counting → (id, 0) ∈ (s.unit u).launches →
      (∀ h ∈ l.heldShares, coreUnit h.1 ≠ u) → line.toNat % 64 = 0 → s.writesOut p .sys = false →
      ∀ k, s.reaches g (Acc.atomic 8) line (.mem k) → isHostKey k = false → s.mem.poisoned k 8 = false →
        ∃ t, exec (.launchCompletionDecrement p id cl) s = .next t ∧
          t.mem.num k 8 = (s.mem.num k 8 + 2 ^ 64 - 1) % 2 ^ 64 ∧ s.keptBut t k 8 ∧
          (∀ x ∈ (t.part p).launches, x.id = id → cl ∉ x.counting ∧ x.counting ≠ []) ∧ ∀ y ∈ (t.unit u).launches, y.1 ≠ id)

/-- The gang switch (R285-R290): a core that samples a TS of at least S stops the outgoing VF's contexts, FORCED counting those that
had not arrived by a YIELD.G, and the first such sample is TSTOP0; GANG_SWITCH_DEADLINE, at a TS of at least S, saves those contexts
as they stand and frees them. SWITCH_RESTORE runs the incoming VF, puts its saved contexts back, and writes the status line; with no
switch begun it restores the VF that a launch waits to run (R282). That the save is one step, with TSAVED its TS, is the model's choice
(log 33), and so is TSAVED 0 where no VF ran (log 99). -/
def Obligations.SwitchEvents : Prop :=
  ∀ (s : State) (p : Nat) (w : Switch), (s.part p).switch = some w →
    let now := s.tsOf p
    let begun := w.begun.or (some now)
    -- a core's first sample that is at least S
    (∀ k v, s.partOf (k / 32) = some p → w.saved = false → w.at_ ≤ now → s.reached p k w = false → (s.part p).running = some v →
      ((s.sampleTs k s.ts).part p).switch = some { w with
        begun := begun, outgoing := w.outgoing.or (some v),
        forced := w.forced + ((s.vfCtxs p v).filter fun x => x.1 == k && (s.ctx k x.2).wait != .yieldG).length }) ∧
    (w.saved = false → w.at_ ≤ now →
      ((s.part p).running = none → Acts (.gangSwitchDeadline p) s fun t =>
        (t.part p).switch = some { w with begun := begun, saved := true } ∧ (t.part p).running = none) ∧
      (∀ v, (s.part p).running = some v →
        -- every core has reached S, and the engines their boundaries (R229)
        let us := (s.units.map fun x => x.1).filter fun u => (s.part p).bulks.contains (u / 8)
        let s0 := (s.reachAll p).modSwitch p fun w => { w with begun := begun, outgoing := some v }
        let s1 := us.foldl (fun s u => s.finishShort u v w.halted (s.unit u).mq.length) s0
        s1.mustFinish p v = false → ∃ t n, exec (.gangSwitchDeadline p) s = .next t ∧
        (t.part p).running = none ∧ (t.part p).switch = some
          { w with begun := begun, outgoing := some v, savedAt := now, forced := w.forced + n, halted := true, saved := true } ∧
        ((∀ y ∈ s.vfCtxs p v, s.reached p y.1 w = true ∨ (s.ctx y.1 y.2).wait = .yieldG) → n = 0) ∧
        ((∀ u, (s.unit u).mq = []) → ∃ sv ∈ (t.part p).savedVfs, sv.vf = v ∧ ∀ y ∈ s.vfCtxs p v,
          (t.ctx y.1 y.2).bound = false ∧ (y.1, y.2, (s.ctx y.1 y.2).checkpoint) ∈ sv.ctxs))) ∧
    (∀ v, w.begun = none → w.saved = false → (s.part p).running = none → (s.part p).next = some v → s.mayRun p v = true →
      Acts (.switchRestore p) s fun t => (t.part p).running = some v ∧ (t.part p).switch = some w ∧ (t.part p).next = none) ∧
    (∀ t0 k, w.begun = some t0 → w.saved = true → s.mayRun p w.vf = true →
      s.reaches (w.agent p (.switch p)) (Acc.store 8) w.line (.mem k) → isHostKey k = false → isHostKey (k + 39) = false →
      s.writesOut p .sys = false → ∃ t, exec (.switchRestore p) s = .next t ∧ (t.part p).switch = none ∧ (t.part p).running = some w.vf ∧
        t.mem.bytes k 40 = leBytes 8 0 ++ leBytes 8 (w.arrived % 2 ^ 32 + w.forced % 2 ^ 32 * 2 ^ 32) ++ leBytes 8 t0 ++
          leBytes 8 w.savedAt ++ leBytes 8 now ∧ s.keptBut t k 40 ∧
        ∀ sv, (s.part p).savedVfs.find? (fun v => v.vf == w.vf) = some sv →
          (sv.ctxs.map fun y => (y.1, y.2.1)).Nodup → ∀ y ∈ sv.ctxs,
            (t.ctx y.1 y.2.1).bound = y.2.2.bound ∧ (t.ctx y.1 y.2.1).regs = y.2.2.regs ∧ (t.ctx y.1 y.2.1).pc = y.2.2.pc)

/-- Events of messages (R269-R273): MESSAGE_DELIVERY puts a SEND's message into its target's ring, or answers "bounced" or
"full" with nothing written; SEND_ANSWER writes the status, or blocks the sender on a full inbox (here with its results
written and its writes performed, R19, R194), with the time its delivery found it full; SEND_RETRY delivers an entry
of the send buffer, which then leaves it; an attempt that finds the inbox full, or an earlier entry to its target, notes the time or
counts. That a blocked SEND ended by a bounce answers 1 + 256 * cause is the model's choice (log 47): R271 and R272 do not list it. -/
def Obligations.MessageEvents : Prop :=
  ∀ (s : State) (core ctx n : Nat),
    let x := s.ctx core ctx
    let buf := (s.core core).sendBuf
    (∀ m d, x.msg = some (m, d) → x.answer = none →
      let answers (w : Word) : Prop := Acts (.messageDelivery core ctx) s fun t =>
        t.ctx core ctx = { x with answer := some w, answeredAt := s.tsOf (s.recOf x.tid).part }
      (s.findRec m.target = none → answers 1#64) ∧
      (∀ r, s.findRec m.target = some r → (r.state = .retired → answers 1#64) ∧
        (r.state ≠ .retired → r.inbox = 0#64 → answers (1#64 + 512#64)) ∧
        (r.state ≠ .retired → r.inbox ≠ 0#64 → ∀ k I, (s.inboxOf r).1 = .ok k I →
          let mere := 2 ^ I.mereK ≤ I.mere ∧ (I.mhead ≠ I.mtail ∨ 2 ^ I.ringK ≤ I.ring)
          (mere → answers (BitVec.allOnes 64)) ∧
          (I.mhead = I.mtail → I.ring < 2 ^ I.ringK →
            ∀ e, (s.homeOf r.inboxAgent (I.rbase + BitVec.ofNat 64 (64 * (I.rhead % 2 ^ I.ringK)))).1 = some e →
              (e + 64 ≤ k + 0x10 ∨ k + 0x14 ≤ e) → isHostKey e = false → isHostKey (k + 0x10) = false →
              ∃ t, exec (.messageDelivery core ctx) s = .next t ∧ (t.ctx core ctx).answer = some 0#64 ∧
                t.mem.bytes e 64 = leBytes 64 m.body.toNat ∧ t.mem.num (k + 0x10) 4 = (I.rhead + 1) % 2 ^ 32 ∧ t.pf = s.pf ∧
                ∀ a, (a < e ∨ e + 64 ≤ a) → (a < k + 0x10 ∨ k + 0x14 ≤ a) → t.mem.byte a = s.mem.byte a)))) ∧
    (∀ m d w, x.msg = some (m, d) → x.answer = some w →
      (w ≠ BitVec.allOnes 64 → Acts (.sendAnswer core ctx) s fun t =>
        (t.ctx core ctx).regs = x.regs.setG d w ∧ (t.ctx core ctx).pc = x.pc + 4#64 ∧ (t.ctx core ctx).msg = none ∧
        (t.ctx core ctx).wait = .none_) ∧
      (w = BitVec.allOnes 64 → (buf.filter fun e => !e.extra).length < 64 → x.carryFull = true → m.sender = x.tid →
        x.inflight = [] → s.writesOut (s.recOf x.tid).part .part = false → s.resident x.tid = true → Acts (.sendAnswer core ctx) s fun t => (t.ctx core ctx).bound = false ∧
          (∃ e, (t.core core).sendBuf = buf ++ [e] ∧ e.posted = false ∧ e.msg = m ∧ e.dest = d ∧ e.tries = 0 ∧
            e.first = some x.answeredAt) ∧
          ∃ q, t.findRec x.tid = some q ∧ q.state = .sleeping ∧ q.sendwait = true ∧ q.deadline = none)) ∧
    (∀ e, buf[n]? = some e → s.sendDue core n e = true → e.ended = none → (∀ y ∈ buf, y.extra = false) →
      (savesSend e.vf e = false ∨ s.atSwitch ((s.partOf (core / 32)).getD 0) e.vf = false) →
      let fails : Prop :=
        (e.first = none → e.tries < 16 → Acts (.sendRetry core n) s fun t =>
          (t.core core).sendBuf = buf.set n { e with first := some (s.tsOf ((s.partOf (core / 32)).getD 0)) }) ∧
        (∀ f, e.first = some f → e.tries < 15 → Acts (.sendRetry core n) s fun t =>
          (t.core core).sendBuf = buf.set n { e with tries := e.tries + 1 })
      (s.sendAhead core n e ≠ [] → fails) ∧
      (s.sendAhead core n e = [] →
      let D := s.deliver e.msg
      let leaves (P : State → Prop) : Prop := ∃ t, exec (.sendRetry core n) s = .next t ∧ t.mem = D.2.mem ∧
        (t.core core).sendBuf = buf.eraseIdx n ∧ P t
      (∀ v, D.1 = .done v → e.posted = true → leaves fun _ => True) ∧
      (∀ v, D.1 = .done v → e.posted = false → s.resident e.msg.sender = true →
        (s.recOf e.msg.sender).state = .sleeping → leaves fun t =>
        ∃ q, t.findRec e.msg.sender = some q ∧ q.state = .ready ∧ q.sendwait = false ∧ q.result = some (e.dest, BitVec.ofNat 64 v)) ∧
      (∀ v, D.1 = .bounce v → e.posted = false → s.resident e.msg.sender = true →
        (s.recOf e.msg.sender).state = .sleeping → leaves fun t =>
        ∃ q, t.findRec e.msg.sender = some q ∧ q.state = .ready ∧ q.result = some (e.dest, BitVec.ofNat 64 (1 + 256 * v))) ∧
      (D.1 = .full → fails)))

/-- What reaches a home from outside a core (R148, R150-R152, R341, R348, R349, R352, R354, R355, R358). A host write, an admitted write of
another partition or of a remote package puts its bytes into memory and changes no other; a read changes none; an AtomicOp
leaves the new value. Each passes once no earlier request for its units waits (R151). GRAIN_CHANGE switches one slice of a page once
no L1 holds its units; a coherence request, a host snoop and a back-invalidation's answer change the copies held as their entries
say; its dirty data on a sealed page is refused and logged (R52). A block that fails its carry check is poisoned and
logged with cause 6; one that passes, or is poisoned already, is left alone. -/
def Obligations.HomeEvents : Prop :=
  ∀ (s : State) (port pa core p : Nat) (x y : Word) (bs : List Byte) (n : Nat),
    let wrote (i : Instr) (k : Nat) (bs : List Byte) : Prop := ∃ t, exec i s = .next t ∧ t.mem.bytes k bs.length = bs ∧
      s.keptBut t k bs.length ∧ t.cur = s.cur
    -- no record waits for the home, which would be written now
    let still := ∀ b, (s.bulk b).pendRecs = [];
    (∀ k, s.hostKeyOf pa bs.length = some (p, k) → s.homeOpen k bs.length → s.replaying p = false → s.rmode p = 0 →
      s.sealedRange k bs.length = false → wrote (.hostMemoryRequest port pa (.write bs false)) k bs) ∧
    (∀ k c, s.hostKeyOf pa n = some (p, k) → s.homeOpen k n →
      let caches := c = true ∧ s.portHdm.getD port false = true
      ¬caches ∨ s.hcFull k n = none → Acts (.hostMemoryRequest port pa (.read n c)) s fun t =>
        (∀ z, t.l1Get z (s.unitOf k) ≠ .m ∧ t.l1Get z (s.unitOf k) ≠ .o) ∧
        (caches → (s.hostRead k n).l2Room (keyBulk k) (dirKey (64 * (k / 64))) = true →
          (((t.bulk (keyBulk k)).dirOf (dirKey (64 * (k / 64)))).hc).getLsbD (k / 64 % 8) = true) ∧
        (¬caches → ∀ b d, ((t.bulk b).dirOf d).hc = ((s.bulk b).dirOf d).hc)) ∧
    (∀ k d, s.hostKeyOf pa (if d then 8 else 4) = some (p, k) →
      let m := if d then 8 else 4
      let old := s.mem.num k m
      let a := x.toNat % 2 ^ (8 * m)
      let b := y.toNat % 2 ^ (8 * m)
      pa % m = 0 → s.homeOpen k m → s.replaying p = false → s.sealed k = false → s.mem.poisoned k m = false →
      wrote (.hostAtomicop port pa .fetchAdd d x y) k (leBytes m ((old + a) % 2 ^ (8 * m))) ∧
      wrote (.hostAtomicop port pa .swap d x y) k (leBytes m a) ∧
      wrote (.hostAtomicop port pa .cas d x y) k (leBytes m (if old = a then b else old)) ∧
      exec (.hostAtomicop port pa .cas128 d x y) s = .next s) ∧
    (∀ imp exp dpa, let k := (s.part exp).dpaKey dpa
      s.partRunning exp = true → s.partRunning imp = true → imp ≠ exp →
      (0 < bs.length → dpa % 4096 + bs.length ≤ 4096 → s.windowAdmits exp imp dpa true = true → s.homeFree k bs.length →
        s.sealedRange k bs.length = false → wrote (.crossBulkheadAccess imp exp dpa (.write bs false)) k bs) ∧
      (∀ c, 0 < n → dpa % 4096 + n ≤ 4096 → s.windowAdmits exp imp dpa false = true → s.homeFree k n →
        Acts (.crossBulkheadAccess imp exp dpa (.read n c)) s fun _ => True)) ∧
    (∀ pkg part dpa, let k := (s.part p).dpaKey dpa
      s.partRunning p = true → s.replaying p = false → s.rmode p = 0 → s.sealed k = false →
      (0 < bs.length → dpa % 512 + bs.length ≤ 512 → s.inbound p pkg part dpa true = true → s.homeFree k bs.length →
        wrote (.remoteInboundAccess port pkg part p dpa (.write bs false)) k bs) ∧
      (0 < n → dpa % 512 + n ≤ 512 → s.inbound p pkg part dpa false = true → s.homeFree k n →
        Acts (.remoteInboundAccess port pkg part p dpa (.read n)) s fun _ => True) ∧
      (dpa % 8 = 0 → s.inbound p pkg part dpa true = true → s.homeFree k 8 → s.mem.poisoned k 8 = false →
        wrote (.remoteInboundAccess port pkg part p dpa (.cas true x y)) k
          (leBytes 8 (if s.mem.num k 8 = x.toNat then y.toNat else s.mem.num k 8)))) ∧
    (∀ r, still → (s.bulk p).grainReqs.find? (fun r => !r.done.getLsbD n) = some r → n < 8 → Acts (.grainChange p n) s fun t =>
      fget 0#2 (t.bulk p).grain (8 * r.page + n) = r.grain ∧ (∀ z k, inSlice p r.page n k = true → t.l1Get z k = .i) ∧
      (∀ q ∈ (t.bulk p).grainReqs, q ≠ r) ∧
      let done := r.done ||| BitVec.ofNat 8 (2 ^ n)
      (done ≠ 0xff#8 → { r with done := done } ∈ (t.bulk p).grainReqs)) ∧
    (let k := pa
     let u := s.unitOf k
     let g := grainBytes (s.grainOf k);
     s.partOf (core / 32) = some p → isDevKey k = true → (s.part p).bulks.contains (keyBulk k) = true → s.homeOpen u g →
      let room := s.l1Room core u = true ∧ s.l2Room (keyBulk u) (dirKey u) = true;
      (s.biNeeds u g false = [] → room → Acts (.coherenceRequest core k .read) s fun t =>
        t.l1Get core u ≠ .i ∧ ∀ z, z ≠ core → t.l1Get z u ≠ .m ∨ s.l1Get core u ≠ .i) ∧
      (s.biNeeds u g true = [] → room → Acts (.coherenceRequest core k .own) s fun t =>
        t.l1Get core u = .m ∧ ∀ z, z ≠ core → t.l1Get z u = .i) ∧
      Acts (.coherenceRequest core k .writeBack) s (fun t => t.l1Get core u = .i) ∧
      Acts (.coherenceRequest core k .drop) s (fun t => s.l1Get core u = .e ∨ s.l1Get core u = .s → t.l1Get core u = .i) ∧
      Acts (.coherenceRequest core k .recall) s (fun t => ∀ z, t.l1Get z u = .i)) ∧
    (∀ check src un, s.partOf (core / 32) = some p → (keyHasFe pa = true → (s.part p).bulks.contains (keyBulk pa) = true) →
      let v := Instr.coherenceRequest core pa (.verify check src un)
      let h := s.hopAt p core pa
      let b := s.bulk h.1
      let entry (t : State) : BitVec 128 := fget 0#128 (t.bulk h.1).vlog (b.vcount.toNat % 64)
      let good := s.mem.poisoned pa 1 = true ∨ crc32c (s.mem.bytes (pa / 64 * 64) 64) = check
      (good → exec v s = .next s) ∧
      (¬good → s.partOf h.1 = some p → s.desc p 0x90 = 0#64 → Acts v s fun t =>
        t.mem.poisoned pa 1 = true ∧ (∀ a, a / 64 ≠ pa / 64 → t.mem.poisoned a 1 = s.mem.poisoned a 1) ∧
        (t.bulk h.1).vcount = b.vcount + 1#32 ∧ (entry t).extractLsb' 0 64 = BitVec.ofNat 64 h.2 ∧
        (entry t).extractLsb' 64 8 = 6#8 ∧ (entry t).extractLsb' 72 8 = BitVec.ofNat 8 src)) ∧
    (let key := 2 ^ 64 + 64 * n
     -- bytes of the line written here while its ownership is asked for, which the host's write precedes (R188)
     let rs := (s.hostOps.filter fun z => z.own && z.write && z.onLine key).flatMap fun z => z.newer;
     (s.proxyGet p n ≠ .i →
      Acts (.hostSnoop p n .share) s (fun t => t.proxyGet p n = .s) ∧
      Acts (.hostSnoop p n (.take none)) s fun t => t.proxyGet p n = .i) ∧
     ∀ v, rs = [] → ∃ t, exec (.hostSnoop p n (.take (some v))) s = .next t ∧ t.mem.bytes key 64 = leBytes 64 v.toNat ∧
      s.keptBut t key 64) ∧
    (∀ v poison, still → (∀ r ∈ (s.bulk p).biOver, r.1 / 64 ≠ n) →
      let st := fget 0 (s.bulk p).bisnp n
      let hc (t : State) : Bool := (((t.bulk p).dirOf (dirKey (64 * n))).hc).getLsbD (n % 8)
      let answers (inv : Bool) (P : State → Prop) : Prop := Acts (.birsp p n inv none) s P ∧
        (s.sealed (64 * n) = false → ∃ t, exec (.birsp p n inv (some (v, poison))) s = .next t ∧
          t.mem.bytes (64 * n) 64 = leBytes 64 v.toNat ∧ t.mem.poisoned (64 * n) 64 = poison ∧ s.keptBut t (64 * n) 64 ∧ P t) ∧
        ∀ q, s.sealed (64 * n) = true → s.partOf p = some q → s.desc q 0x90 = 0#64 →
          Acts (.birsp p n inv (some (v, poison))) s fun t => (t.bulk p).vcount = (s.bulk p).vcount + 1#32 ∧ P t
      (∀ inv, (inv = true ∧ st = 1) ∨ st = 2 → answers inv fun t => fget 0 (t.bulk p).bisnp n = 0 ∧ hc t = false) ∧
      (st = 1 → answers false fun t => fget 0 (t.bulk p).bisnp n = 3))

/-- Events of the links (R350-R360). LINK_STATE_CHANGE, REED_LINK_STATE_CHANGE, LANE_STOP and LANE_GO set the port's and the
lane's state; FLIT_REPLAY changes nothing; an answer takes its operation away: a load takes its bytes from the answer, an atomic the
old value, and the fault that it stands for goes to the producer that waits; a timeout poisons it. An answer for a unit that is no
thread is kept for it. That an error response to a remote access is fault 0x16, and that the 100,000 ticks run from the request, are
the model's choice (log 31): R358 and R359 name neither. -/
def Obligations.LinkEvents : Prop :=
  ∀ (s : State) (port lane p n : Nat) (up : Bool) (cxl : CxlMode) (o : HostOp),
    let bare := s.hostOps = [] ∧ s.remoteOps = [] ∧ ∀ c ∈ s.cores, c.2.watches = []
    let x := s.ctx o.core o.ctx
    -- the producer that waits for this answer alone, for some element, with nothing wrong in its others
    let waiting (j : Nat) (pr : Producer) : Prop := x.inflight.findIdx? (Producer.waitsFor o.id) = some j ∧
      x.inflight[j]? = some pr ∧ ∃ got els, pr.st = .link [o.id] got els ∧ (∀ y ∈ got, y.2.good = true) ∧
      (∀ bs, .here bs true ∉ els) ∧ ∃ key, .far key ∈ els ∧ key / 64 = o.base / 64 ∧ ∀ y ∈ got, y.1 / 64 ≠ key / 64
    let faults (t : State) (code : Nat) (P : Word → Prop) : Prop := ∀ j pr, waiting j pr →
      ∃ a d : Word, (t.ctx o.core o.ctx).inflight[j]? = some { pr with st := .fault code a d } ∧ P d ∧
      (t.ctx o.core o.ctx).regs = x.regs
    -- a scalar load whose data has come takes its bytes from the line that was asked for
    let loads (i : Instr) (bs : List Byte) (u : State) : Prop := ∀ j (pr : Producer) va m sext key,
      x.inflight.findIdx? (Producer.waitsFor o.id) = some j → x.inflight[j]? = some pr →
      pr.st = .link [o.id] [] [.far key] → pr.op = .load va m sext → key / 64 = o.key / 64 →
      let v := leNat ((bs.drop (key % 64)).take m)
      ∃ t, exec i s = .next t ∧ t.mem = u.mem ∧ t.hostOps = u.hostOps ∧ t.remoteOps = u.remoteOps ∧
        (t.ctx o.core o.ctx).inflight[j]? = some { pr with
          st := .valueG (if sext then (BitVec.ofNat (8 * m) v).signExtend 64 else BitVec.ofNat 64 v) }
    -- an atomic that the other side has performed gives the old value, and the new one is in this package's view
    let atomics (i : Instr) (bs : List Byte) : Prop := ∀ j (pr : Producer),
      x.inflight.findIdx? (Producer.waitsFor o.id) = some j → x.inflight[j]? = some pr →
      pr.st = .link [o.id] [] [.far o.key] →
      let m := pr.op.width
      let old := leNat (bs.take m)
      ∃ t, exec i s = .next t ∧
        (t.ctx o.core o.ctx).inflight[j]? = some { pr with st := .valueG (BitVec.ofNat 64 old) } ∧
        (o.newer = [] → t.mem.bytes o.key m = leBytes m (pr.op.update old))
    -- the answer's bytes in memory, but for those written here since the request (R188)
    let landed (bs : List Byte) : State := s.land o bs
    (∃ t, exec (.linkStateChange port up cxl) s = .next t ∧ t.portUp = s.portUp.set port up ∧
      t.portCxl = s.portCxl.set port (up && cxl != .pcie) ∧ t.portHdm = s.portHdm.set port (up && cxl == .flit256) ∧
      (bare → Still s t ∧ t.hostOps = [])) ∧
    (∃ t, exec (.reedLinkStateChange port up) s = .next t ∧ fget false t.reedDown port = !up ∧ (bare → Still s t)) ∧
    (∃ t, exec (.laneStop port lane) s = .next t ∧ fget false t.laneStopped (4 * port + lane) = true ∧ Still s t) ∧
    (∃ t, exec (.laneGo port lane) s = .next t ∧ fget false t.laneStopped (4 * port + lane) = false ∧ (bare → Still s t)) ∧
    exec (.flitReplay port) s = .next s ∧
    ((∀ y ∈ s.hostOps.filter (fun z => z.own && z.write && z.onLine o.key), y.newer = []) → o.newer = [] →
      o.atomic = false ∨ o.own = true → (isHostKey o.key = true → o.own = true ∨ s.proxyGet o.part (hostLineOf o.key) = .i) →
      ∀ bs, bs.length ≤ 64 → o.key % 64 = 0 → (landed bs).mem = s.mem.store o.key bs false) ∧
    (s.hostOp p n = some o → o.ans = .pending →
      let gone (t : State) : Prop := t.hostOps = s.hostOps.filter fun z => z.id ≠ o.id
      let ended (t : State) : Prop := ∀ z ∈ t.hostOps, z.id ≠ o.id
      let kept (t : State) (a : OpAns) : Prop := ∀ z ∈ t.hostOps, z.id = o.id → z.ans = a
      let fails (i : Instr) (code : Nat) (P : Word → Prop) : Prop := ∃ t, exec i s = .next t ∧ gone t ∧ Still s t ∧ faults t code P
      (o.sent = true → o.write = false → o.holder = none → o.own = false →
        fails (.hostLinkCompletion p n .poison) 0x61 (fun _ => True) ∧
        (o.atomic = false → (∀ bs, loads (.hostLinkCompletion p n (.data bs)) bs ((landed bs).dropHostOp o)) ∧
          fails (.hostLinkCompletion p n .ur) 0x61 (fun _ => True) ∧ fails (.hostLinkCompletion p n .ca) 0x61 fun _ => True) ∧
        (o.atomic = true → (∀ bs, atomics (.hostLinkCompletion p n (.data bs)) bs) ∧
          fails (.hostLinkCompletion p n .ur) 0x34 (· = 1#64) ∧ fails (.hostLinkCompletion p n .ca) 0x34 (· = 4#64))) ∧
      (o.since + 10000000 ≤ s.ts →
        (o.write = false → o.holder = none → o.own = false → fails (.hostRequestTimeout p n) 0x61 fun _ => True) ∧
        (o.id < s.opSeq →
          (o.write = true ∨ o.holder = none → ∃ t, exec (.hostRequestTimeout p n) s = .next t ∧ ended t) ∧
          (o.write = false → o.holder ≠ none → o.holder ≠ some .line →
            ∃ t, exec (.hostRequestTimeout p n) s = .next t ∧ kept t .lost)))) ∧
    (s.proxyGet p n = .m → ∃ t, exec (.hostLinkCompletion p n .wbRefused) s = .next t ∧ t.proxyGet p n = .i) ∧
    (s.remoteOps[n]? = some o → o.ans = .pending →
      let gone (t : State) : Prop := t.remoteOps = s.remoteOps.filter fun z => z.id ≠ o.id
      let ended (t : State) : Prop := ∀ z ∈ t.remoteOps, z.id ≠ o.id
      let kept (t : State) (a : OpAns) : Prop := ∀ z ∈ t.remoteOps, z.id = o.id → z.ans = a
      let fails (i : Instr) (code : Nat) : Prop := ∃ t, exec i s = .next t ∧ gone t ∧ Still s t ∧ faults t code fun _ => True
      (o.sent = true →
        (o.write = true → o.id < s.opSeq → ∃ t, exec (.remoteResponse n .ack) s = .next t ∧ ended t) ∧
        (o.write = false → o.holder = none →
          (o.atomic = false → ∀ bs, loads (.remoteResponse n (.data bs)) bs ((landed bs).dropRemoteOp o)) ∧
          (o.atomic = true → o.own = false → ∀ bs, atomics (.remoteResponse n (.data bs)) bs) ∧
          fails (.remoteResponse n .poison) 0x61 ∧ fails (.remoteResponse n .ur) 0x16)) ∧
      (o.since + 100000 ≤ s.ts →
        (o.write = false → o.holder = none → fails (.remoteTimeout n) 0x61) ∧
        (o.id < s.opSeq →
          (o.write = true → ∃ t, exec (.remoteTimeout n) s = .next t ∧ ended t) ∧
          (o.write = false → o.holder ≠ none → o.holder ≠ some .line →
            ∃ t, exec (.remoteTimeout n) s = .next t ∧ kept t .lost))))

/-- Events of the matrix engine (R201-R203, R207-R215, R218, R225). A command that may start is given its unit: the array with
its tile locked, a drain with its program and descriptor, DPLOAD its image read. MATRIX_COMMAND_COMPLETE leaves the tile as
MZERO, MLOAD and MMA's entries say, writes the completion and frees the entry; DPLOAD_IMAGE_READ fills or empties a Wellhead
slot; DRAIN_ROW makes the stores of one row and goes on to the next. A completion, and a row, wait until the writes before them
are performed at the command's scope (R187, R195, R225). None of these starts or goes on once a switch has come to its S (R288). That
MLOAD, MMA and MMAG take their operands as they stand at MATRIX_COMMAND_COMPLETE is the model's choice (log 56): R210 promises no
moment. -/
def Obligations.MatrixEvents : Prop :=
  ∀ (s : State) (cl n : Nat) (c : ECmd),
    let U := s.unit cl
    let T (t : State) : TileStat := (t.unit cl).tile c.tile
    let ag := c.issuer.agent cl (.engine cl c.tile)
    (s.engineStop c = false → U.mq[n]? = some c → U.mayStart n c = true →
      (c.fn = fDPLOAD → Acts (.matrixCommandStart cl n) s fun t => (t.unit cl).mq[n]? = some { c with phase := .image }) ∧
      (c.fn < 4 → c.fn ≠ fMMAG → Acts (.matrixCommandStart cl n) s fun t =>
        (t.unit cl).mq[n]? = some { c with phase := .array } ∧ (T t).lock = true) ∧
      (c.fn = fMMAG → s.tarnPoison cl (c.fld 7 0 22) (2 * c.m) = none →
        let ix := (List.range c.m).map fun i => leNat (s.mem.bytes (tarnKey cl (c.fld 7 0 22 + 2 * i)) 2)
        ix.findIdx? c.indexBad = none → Acts (.matrixCommandStart cl n) s fun t =>
          (t.unit cl).mq[n]? = some { c with phase := .array, index := ix } ∧ (T t).lock = true)) ∧
    (s.engineStop c = false → U.mq[n]? = some c → (c.fn = fMDRAIN ∧ U.mayStart n c = true) ∨
        (c.phase = .drainWait ∧ U.drainFree = true ∧ U.dploadAhead n c = false) →
      let off := c.fld 4 0 22
      let D := s.mem.block (tarnKey cl off)
      fget false U.whValid c.prog = true → s.tarnPoison cl off 64 = none → descBad D = false →
      s.tarnPoison cl (dPbase D) 1024 = none → s.tarnPoison cl (dCbase D) 512 = none →
      Acts (.matrixCommandStart cl n) s fun t => (T t).lock = true ∧ (T t).fault = false ∧
        ∃ r, (t.unit cl).run = some r ∧ r.cmd = { c with phase := .drain } ∧ r.prog = fget 0#512 U.wellhead c.prog ∧ r.desc = D ∧
          r.row = 0 ∧ r.blk = 0) ∧
    (let done (kc : Nat) (P : State → Prop) : Prop :=
      s.reaches ag (Acc.store 8) (c.reg 5) (.mem kc) → isHostKey kc = false →
        ∃ t, exec (.matrixCommandComplete cl) s = .next t ∧ t.mem.num kc 8 = (c.reg 6).toNat ∧ s.keptBut t kc 8 ∧
          (t.unit cl).mq = U.mq.eraseIdx n ∧ (T t).lock = false ∧ P t
     let old (i j : Nat) : W32 := U.elem c.tile i j
     let elems (f : Nat → Nat → W32) (t : State) : Prop := ∀ q i j, i < 64 → j < 64 →
      (t.unit cl).elem q i j = if q = c.tile ∧ i < c.m ∧ j < c.n then f i j else U.elem q i j;
     U.mq.findIdx? (fun y => y.phase == Phase.array) = some n → U.mq[n]? = some c → c.hasTile = true → c.fl.dec = false →
     (∀ y ∈ U.mq, y.phase ≠ .complete ∧ y.phase ≠ .faulted) → (∀ y ∈ U.resumed, y.phase ≠ .complete) → s.writesOut c.issuer.part c.fl.scope = false →
     c.piece = 0 → ∀ kc,
      (c.fn = fMZERO → done kc fun t => (T t).fault = false ∧ ∀ q i j, i < 64 → j < 64 →
        (t.unit cl).elem q i j = if q = c.tile then 0#32 else U.elem q i j) ∧
      (c.fn = fMLOAD → (∀ i, i < c.m → s.tarnPoison cl (c.rowOff 0 i) (4 * c.n) = none) →
        done kc (elems fun i j => BitVec.ofNat 32 (leNat (s.mem.bytes (tarnKey cl (c.rowOff 0 i + 4 * j)) 4)))) ∧
      (c.isMma = true → s.engineStop c = false → c.drains = false → s.firstPoison cl c = none →
        let A (i : Nat) := s.operandRow cl c 0 c.fa 0 (c.aRow i)
        let B (j : Nat) := s.operandRow cl c 1 c.fb 22 j
        done kc (elems fun i j => mmaElem c (A i) (B j) c.chunks (old i j)) ∧
        (fmtInt c.fa = true → fmtInt c.fb = true → done kc (elems fun i j => old i j + BitVec.ofInt 32
          ((List.range c.k).map fun k => signed (fmtBits c.fa) (rowCode c.fa (A i).1 k) *
            signed (fmtBits c.fb) (rowCode c.fb (B j).1 k)).sum)))) ∧
    (∀ k, U.mq[n]? = some c → c.fn = fDPLOAD → c.phase = .image →
      s.reaches (c.issuer.agent cl (.engine cl (8 + c.slot))) (Acc.vload 64) c.src (.mem k) → isHostKey k = false →
      let X : Vec := BitVec.ofNat 512 (leNat (s.mem.bytes k 64))
      let valid (t : State) : Bool := fget false (t.unit cl).whValid c.slot
      ∃ t, exec (.dploadImageRead cl n) s = .next t ∧
        (s.mem.poisoned k 64 = false → imageBad (imageWords X) 0 = none →
          fget 0#512 (t.unit cl).wellhead c.slot = X ∧ valid t = true) ∧
        (s.mem.poisoned k 64 = true ∨ imageBad (imageWords X) 0 ≠ none → valid t = false)) ∧
    (∀ r (K : Nat → Nat), U.run = some r → s.engineStop r.cmd = false → r.row + 1 < r.cmd.m → s.writesOut r.cmd.issuer.part r.cmd.fl.scope = false →
      let outs := (((List.range ((r.cmd.n + 31) / 32)).drop r.blk).flatMap fun b => r.block U r.row b)
      (∀ i x, outs[i]? = some x → (s.drainAddr cl r r.row x).2 = false ∧ isHostKey (K i) = false ∧ 0 < x.2.2.1 ∧
        s.reaches (r.cmd.issuer.agent cl (.drain cl)) (Acc.store x.2.2.1) (s.drainAddr cl r r.row x).1 (.mem (K i)) ∧
        ∀ i' x', i' < i → outs[i']? = some x' → K i' + x'.2.2.1 ≤ K i ∨ K i + x.2.2.1 ≤ K i') →
      ∃ t, exec (.drainRow cl) s = .next t ∧ (t.unit cl).run = some { r with row := r.row + 1, blk := 0 } ∧
        (∀ i x, outs[i]? = some x → t.mem.bytes (K i) x.2.2.1 = leBytes x.2.2.1 x.2.2.2) ∧
        (∀ a, (∀ i x, outs[i]? = some x → a < K i ∨ K i + x.2.2.1 ≤ a) → t.mem.byte a = s.mem.byte a) ∧
        (∀ a, t.mem.full a = s.mem.full a) ∧ t.pf = s.pf)

/-- Events of copies, gates and groups (R182, R183, R232-R234, R238-R240, R244): the oldest outbound entry goes to the streamer
its routing byte names; an arrival enters the streamer's queue; a piece moves its bytes, and the completion follows the last, the
command staying until it is performed; none of these goes on once a switch has come to its S (R288); a fired gate's command enters its
queue; a group's pending fill starts once its deadline is past, and its data and completion word reach its member. -/
def Obligations.CopyAndGroupEvents : Prop :=
  ∀ (s : State) (u n p g : Nat) (c : ECmd),
    let U := s.unit u
    (s.engineStop c = false → U.outq.head? = some c →
      let fill := c.fn == fFILL
      let r := (s.locate (c.issuer.agent u (.outbound u)) { Acc.load 1 with write := fill } (c.reg (if fill then 1 else 0))).1
      let goes (c : ECmd) (v : Nat) : Prop := Acts (.outboundForward u) s fun t => (t.unit u).outq = U.outq.drop 1 ∧
        (t.unit v).flying = (s.unit v).flying ++ [{ c with phase := .forwarding }]
      (∀ pl, r = .ok pl → goes c (routeOf c.issuer pl)) ∧
      (∀ k x, r = .fault k x → goes { c with refused := some k } c.issuer.streamer)) ∧
    (s.engineStop c = false → U.flying[n]? = some c → (∀ y ∈ U.flying.take n, y.issuer.unit ≠ c.issuer.unit) → U.sq.length < 64 →
      Acts (.streamerArrival u n) s fun t => (t.unit u).flying = U.flying.eraseIdx n ∧
        (t.unit u).sq = U.sq ++ [{ c with phase := .arrived }]) ∧
    (∀ r left, U.gated = false → s.streamTurn u = some (r, left) → U.sq.find? (fun y => y.issuer.unit == r) = some c →
      let leaves (t : State) : Prop := (t.unit u).sq = U.sq.eraseP fun y => y.issuer.unit == r
      let out := s.writesOut c.issuer.part c.doneScope
      (c.phase = .written → out = false → Acts (.streamerPiece u) s leaves) ∧
      (c.phase ≠ .written → s.engineStop c = false → c.refused = none →
      let lo := 4096 * c.piece
      let m := min 4096 (c.total - lo)
      (∀ (D : Nat → Nat) (b : Nat → Byte), c.piece + 1 < c.pieces →
        (∀ j, j < m → (s.copyByte u c (lo + j)).1 = .ok (.mem (D j)) (b j) false ∧ isHostKey (D j) = false ∧
          ∀ i, i < j → D i ≠ D j) →
        ∃ t, exec (.streamerPiece u) s = .next t ∧ (∀ j, j < m → t.mem.byte (D j) = b j) ∧
          (∀ a, (∀ j, j < m → a ≠ D j) → t.mem.byte a = s.mem.byte a) ∧ (∀ a, t.mem.full a = s.mem.full a) ∧ t.pf = s.pf ∧
          (t.unit u).sq.find? (fun y => y.issuer.unit == r) = some { c with piece := c.piece + 1 } ∧
          (t.unit u).turn = some (r, left - 1)) ∧
      (∀ j pl, (c.fn = fCPY ∨ c.fn = fCPYS) →
        let src := if c.fn = fCPY then c.reg 0 + BitVec.ofNat 64 j else c.reg 0 + BitVec.ofNat 64 (j % c.w) +
          BitVec.ofNat 64 (j / c.w) * (BitVec.ofNat 32 (bitsOf (c.reg 3) 0 32)).signExtend 64
        let dst := if c.fn = fCPY then c.reg 1 + BitVec.ofNat 64 j else c.reg 1 + BitVec.ofNat 64 (j % c.w) +
          BitVec.ofNat 64 (j / c.w) * (BitVec.ofNat 32 (bitsOf (c.reg 3) 32 32)).signExtend 64
        s.reaches (c.copyAgent u) { Acc.load 1 with align := 1 } src (.mem pl) → isHostKey pl = false → ∀ d,
        s.reaches (c.copyAgent u) { Acc.store 1 with align := 1 } dst d →
          (s.copyByte u c j).1 = .ok d (s.mem.byte pl) (s.mem.poisoned pl 1)) ∧
      (∀ k, c.pieces ≤ c.piece → c.fl.dec = false → s.writesOut c.issuer.part c.fl.scope = false →
        s.reaches (c.issuer.agent u (c.copyAgent u).holder) (Acc.store 8) (c.reg 5) (.mem k) → isHostKey k = false →
        ∃ t, exec (.streamerPiece u) s = .next t ∧ t.mem.num k 8 = (c.reg 6).toNat ∧ s.keptBut t k 8 ∧
          (out = false → leaves t) ∧ (out = true →
            (t.unit u).sq.find? (fun y => y.issuer.unit == r) = some { c with phase := .written, piece := c.pieces })))) ∧
    (∀ G, U.gates[n]? = some G → U.gateFirst G = true →
      (G.cmd.matrix = true → U.mq.length < 16 → Acts (.gateEnterQueue u n) s fun t =>
        (t.unit u).gates = U.gates.eraseIdx n ∧ (t.unit u).mq = U.mq ++ [G.cmd]) ∧
      (G.cmd.matrix = false → s.outFree u = true → Acts (.gateEnterQueue u n) s fun t =>
        (t.unit u).gates = U.gates.eraseIdx n ∧ (t.unit u).outq = U.outq ++ [G.cmd])) ∧
    (let E := s.grp p g;
     (E.valid = true → E.p = true → E.deadline < s.tsOf p → ∃ t f, exec (.groupTimerExpiry p g) s = .next t ∧
      (t.grp p g).l = E.l + 1#32 ∧ (t.grp p g).p = false ∧ (t.grp p g).a = 0 ∧ (t.grp p g).asked = [] ∧
      (t.grp p g).fills = E.fills ++ [f] ∧ f.seq = E.l + 1#32 ∧ f.timed = true ∧ f.asked = E.a ∧
      f.off = E.off + (E.l + 1#32).toNat % 2 * E.size ∧ Still s t) ∧
     ∀ f rest ps m kc (K : Nat → Nat), E.fills = f :: rest → f.bad = false → f.places = some ps → s.mems p g = [m] →
      m.dec = false → (∀ i, i < f.len / 64 → (f.blocks ps)[i]? = some (.mem (K i)) ∧ isHostKey (K i) = false ∧
        (isDevKey (K i) = true → s.homeFree (K i) 64) ∧ s.mem.poisoned (K i) 64 = false) →
      let v := (s.part p).clOfFlat m.fc
      let kt := tarnKey v f.off
      let len := 64 * (f.len / 64)
      s.reaches { part := p, vf := m.vf, bulk := v / 8, unit := v, deep := false, engine := true, tid := m.tid,
                  holder := .member p g m.fc } (Acc.store 8) m.comp (.mem kc) → isHostKey kc = false →
      (kc + 8 ≤ kt ∨ kt + len ≤ kc) → ∃ t, exec (.groupFillData p g) s = .next t ∧ (t.grp p g).fills = rest ∧
        t.mem.num kc 8 = f.seq.toNat + (if f.timed then 2 ^ 32 else 0) + f.asked % 512 * 2 ^ 48 ∧
        (∀ i, i < f.len / 64 → t.mem.bytes (kt + 64 * i) 64 = s.mem.bytes (K i) 64) ∧
        ∀ a, (a < kc ∨ kc + 8 ≤ a) → (a < kt ∨ kt + len ≤ a) → t.mem.byte a = s.mem.byte a)

/-- Events of partitions (R53, R297, R323-R327, R337, R340, R343-R346, R363), with no HNOTIFY: a refused start answers its
RESULT; an accepted one gives the partition its bulkheads and a scan, and, the scan passed, its stewards and root thread; a
reset leaves its bulkheads free and empty with the cause in RESULT, authority tables 0 and 1 as R301 gives them and its Stop Markers
sent (R332); a VF reset, once the VF's DPLOADs have ended, leaves the VF not running; the scanner registers a range that passes, its
report a release at sys scope; a table write leaves the defined bits. The model's choices: a CMD 3 on a VF that is not owned ends with
RESULT 0 (log 49); a start refused as not idle keeps STATE (log 17); status 3 is judged before any translation of the range (log 28);
a replayed record's address is a DPA (log 29); bit 0 of STEWPC and ROOTPC is dropped (log 90). -/
def Obligations.PartitionEvents : Prop :=
  ∀ (s : State) (p b port vf w : Nat) (pass hi : Bool) (x : Word), s.desc p 0x98 = 0#64 → s.pfLate = [] →
    let X := s.part p
    let result (t : State) : Nat := bitsOf (t.desc p 0x10) 8 8
    let ends (t : State) (st res : Nat) : Prop := t.pstate p = st ∧ result t = res ∧ t.busy p = false
    (s.busy p = true → s.cmd p = 1 →
      (X.scan = none → s.startResult p ≠ 0 → s.startResult p < 256 → Acts' (.partitionStart p) s fun t =>
        ends t (s.pstate p) (s.startResult p) ∧ t.part p = X) ∧
      (X.scan = none → s.startResult p = 0 → ∃ t c, exec (.partitionStart p) s = .next t ∧ (t.part p).bulks = s.bmask p ∧
        (∀ i ∈ s.bmask p, t.bstate i = 1) ∧ (t.part p).scan = some c ∧ c.boot = true ∧ c.result = none ∧
        c.base = (s.desc p 0x28).toNat ∧ c.len = (s.desc p 0x30).toNat ∧ c.bitmap = (s.desc p 0x38).toNat ∧
        (t.part p).auth = [(0, mkAuth 4 0xff 0), (16, mkAuth 5 0x3f 1)] ∧ t.pstate p = 0 ∧ t.busy p = true) ∧
      (∀ c off, X.scan = some c → c.boot = true → c.result = some (0, off) → c.spoiled = false → X.bulks.Nodup → (∀ i ∈ X.bulks, i < 48) →
        Acts' (.partitionStart p) s fun t => ends t 1 (result s) ∧ (t.part p).scan = none ∧ (t.part p).ranges = X.ranges ++ [c.range] ∧
          (∀ n, n < 24 * X.n → let y := t.ctx (X.coreOfFlat n) 0
            y.bound = true ∧ y.pc = canon (bootPc (s.desc p 0x48)) ∧ y.regs.getG 1 = BitVec.ofNat 64 n ∧ y.regs.getG 2 = s.desc p 0x50 ∧
              y.regs.getG 3 = BitVec.ofNat 64 (p + X.n * 2 ^ 8) ∧ (t.slotRec (X.coreOfFlat n) 0).state = .bound) ∧
          (0 < X.n → let r := t.slotRec (X.coreOfFlat 0) 255
            r.state = .ready ∧ r.deep = true ∧ r.pc = bootPc (s.desc p 0x40) ∧ r.table = 0#10 ∧ r.g1 = BitVec.ofNat 64 (24 * X.n) ∧
              r.g2 = s.desc p 0x50)) ∧
      (∀ c n off, X.scan = some c → c.boot = true → c.result = some (n, off) → n ≠ 0 → n < 256 → (∀ i ∈ X.bulks, i < 48) →
        ∃ t, exec (.partitionStart p) s = .next t ∧ ends t (s.pstate p) 7 ∧ bitsOf (t.desc p 0x10) 16 8 = n ∧
          (t.part p).bulks = [] ∧ ∀ i ∈ X.bulks, t.bstate i = 0)) ∧
    (X.resetCause = none → s.hostOps = [] → (∀ i ∈ X.bulks, i < 48) →
      let resets (i : Instr) (cause : Nat) : Prop := ∃ t, exec i s = .next t ∧ ends t 0 cause ∧
        t.part p = { Part.empty with auth := [(0, mkAuth 4 0xff 0), (16, mkAuth 5 0x3f 1)], markers := s.stopMarkers X.bulks } ∧
        ∀ k, k / 32 ∈ X.bulks → t.core k = Core.empty
      (s.busy p = true → s.cmd p = 2 → resets (.partitionReset p) 0x10) ∧
      (s.partRunning p = true → s.busy p = true → s.cmd p = 3 → X.owns (s.cmdArg p) = true → s.cmdArg p = X.homeVf →
        resets (.vfReset p) 0x11) ∧
      (s.partOf (vf / 4) = some p → vf = X.homeVf → resets (.functionLevelReset vf) 0x11) ∧
      (s.ownerOf b = some p → (resets (.uncorrectableError b) 0x12) ∧ resets (.bulkheadFault b pass) 0x13 ∧
        ((s.pfGet (0x30000 + 8 * b)).getLsbD 8 = true → resets (.bulkheadReset b pass) 0x14))) ∧
    (b < 48 → s.ownerOf b = none →
      let cycled (i : Instr) : Prop := ∃ t, exec i s = .next t ∧ t.pfGet (0x30000 + 8 * b) = (if pass then 0#64 else 2#64) ∧
        ∀ k, k / 32 = b → t.core k = Core.empty
      cycled (.bulkheadFault b pass) ∧ ((s.pfGet (0x30000 + 8 * b)).getLsbD 8 = true → cycled (.bulkheadReset b pass))) ∧
    (s.partRunning p = true → s.busy p = true → s.cmd p = 3 → s.cmdArg p ≠ X.homeVf →
      (X.owns (s.cmdArg p) = false → Acts' (.vfReset p) s fun t => ends t (s.pstate p) 0 ∧ t.part p = X) ∧
      (X.owns (s.cmdArg p) = true → X.switch = none → s.openCalls p (s.cmdArg p) = [] →
        (s.dploadsEnd p (s.cmdArg p)).1 = true → ∃ t, exec (.vfReset p) s = .next t ∧
        result t = 0 ∧ t.busy p = false ∧ (t.part p).running ≠ some (s.cmdArg p) ∧ s.cmdArg p ∈ (t.part p).resumeDue)) ∧
    (s.partOf (vf / 4) = some p → vf ≠ X.homeVf → X.switch = none → s.openCalls p vf = [] → (s.dploadsEnd p vf).1 = true →
      ∃ t, exec (.functionLevelReset vf) s = .next t ∧ (t.part p).running ≠ some vf ∧ vf ∈ (t.part p).resumeDue) ∧
    (∀ c, X.scan = some c → c.boot = false →
      let found (n off : Nat) (t : State) : Prop := ∃ d, (t.part p).scan = some d ∧ d.result = some (n, off) ∧ d.base = c.base
      -- every page of its bitmap, which a refusal leaves undefined, is translated or refused
      let known := (s.scanPages p c (pagesOf c.bitmap (min c.len (2 ^ 26) / 16))).1.contains .wait = false;
      (c.result = none → c.pages = [] → c.bad = true → known → ∃ t, exec (.codemapScan p) s = .next t ∧ found 3 0 t) ∧
      (c.result = none → c.pages ≠ [] → c.spoiled = false → (∀ k ∈ c.pages, s.mem.poisoned (k * 65536) 65536 = false) →
        let rd (o : Nat) : BitVec 16 := BitVec.ofNat 16 (s.mem.num (c.range.key (c.base + o)) 2)
        (∀ l, scanWalk rd c.len (c.len / 2 + 1) 0 false = .ok l → ∃ t, exec (.codemapScan p) s = .next t ∧ found 0 0 t) ∧
        (∀ e, scanWalk rd c.len (c.len / 2 + 1) 0 false = .error e → ∃ t, exec (.codemapScan p) s = .next t ∧ found e.1 e.2 t)) ∧
      (∀ n off k, c.result = some (n, off) → c.spoiled = false → s.reaches (c.agent p) (Acc.vstore 64) c.status (.mem k) →
        s.writesOut p .sys = false → isHostKey k = false → isHostKey (k + 8) = false → n < 2 ^ 64 → off < 2 ^ 64 → ∃ t, exec (.codemapScan p) s = .next t ∧
          t.mem.num k 8 = n ∧ t.mem.num (k + 8) 8 = off ∧ s.keptBut t k 16 ∧ (t.part p).scan = none ∧
          (t.part p).ranges = if n = 0 then X.ranges ++ [c.range] else X.ranges)) ∧
    (s.inService = true →
      ((s.partRunning p && X.owns vf && s.vfInUse p vf) = false → Acts' (.vfTableWrite port p vf x) s fun t =>
        t.vfEntry p vf = x &&& 0x0fffff0f#64) ∧
      Acts' (.windowTableWrite p w hi x) s fun t =>
        t.pfGet (partBase p + 0x100 + 16 * w + if hi then 8 else 0) = x &&& if hi then 0x0000ffffffffffff#64 else 0x3f03#64) ∧
    (let head := (s.pfGet (partBase p + 0xa18)).toNat
     let k := X.dpaKey (s.rPos p)
     let len := s.mem.num (k + 4) 4
     let dpa := s.mem.num (k + 16) 8
     let u := s.pfSet (partBase p + 0xa18) (BitVec.ofNat 64 (head + (32 + len + 63) / 64 * 64));
     s.replaying p = true → head + 64 ≤ (s.pfGet (partBase p + 0xa10)).toNat → X.dpaIn (s.rPos p) 64 = true →
      s.mem.num k 1 = 1 → s.mem.num (k + 8) 8 ≤ s.tsOf p → 0 < len → X.dpaIn dpa len = true →
      u.sealedRange (X.dpaKey dpa) len = false → ∃ t, exec (.replayInject p) s = .next t ∧
        t.mem.bytes (X.dpaKey dpa) len = s.mem.bytes (k + 32) len ∧
        (∀ a, a < X.dpaKey dpa ∨ X.dpaKey dpa + len ≤ a → t.mem.byte a = s.mem.byte a) ∧
        t.pfGet (partBase p + 0xa18) = BitVec.ofNat 64 (head + (32 + len + 63) / 64 * 64))

/-- Events of translation (R330-R334), where nothing held for an answer but contexts goes on: a translation granted enters the
bulkhead's cache, with the class of its page at that moment (`pageClass`, log 75); with none a page request is sent by a host port,
while the bulkhead's share has room, and the thread whose access it is has its notice; a refusal is told to its holders; an
invalidation takes every entry and code range it covers, and its completion lets the tag go. -/
def Obligations.TranslationEvents : Prop :=
  ∀ (s : State) (p bh n : Nat) (q : PageReq), s.ownerOf bh = some p →
    let B := s.bulk bh
    let X := s.part p
    ((∀ i ∈ X.bulks, (s.bulk i).pendRecs = []) → X.heldComps = [] → X.heldStatus = [] → B.reqs[n]? = some q →
      let refused (t : State) (hs : List Holder) (code : Nat) (d : Word) : Prop := (t.bulk bh).refused = B.refused ++
        (hs.filter fun h => h ≠ .hint && h ≠ .line).map fun h =>
          { holder := h, write := q.write, pasid := q.pasid, vpage := q.vpage, code := code, detail := d }
      (q.st = 0 → q.stale = true → Acts (.atsTranslationCompletion bh n .none_) s fun t =>
        (t.bulk bh).reqs = B.reqs.set n { q with stale := false }) ∧
      (q.st = 0 → q.stale = false →
        (∀ tg ppage pages r w, X.tagOf q.pasid = some tg → 0 < pages → pages ≤ 16384 → (if q.write then w else r) = true →
          B.tlb.length < 2048 → Acts (.atsTranslationCompletion bh n (.grant ppage pages r w)) s fun t =>
            (t.bulk bh).reqs = B.reqs.eraseIdx n ∧ (t.bulk bh).tlb = B.tlb ++
              [{ tag := tg.tag, pasid := q.pasid, vpage := q.vpage - q.vpage % pages, pages := pages,
                 ppage := ppage - q.vpage % pages, win := s.pageClass p ppage, r := r, w := w }]) ∧
        ((∃ h ∈ q.holders, h.asksPage = true) →
          let w := { q with holders := (q.holders.filter Holder.asksPage).filter fun h => !h.asksNoPage, st := 2 }
          let sent := { w with st := 1, port := (s.portOf p).getD (p % 2) }
          -- it writes no notice: no instruction, producer, DPLOAD or scan waits for it
          let quiet := ∀ y ∈ q.asked, match y.1 with
            | .ctx _ _ => False
            | .prod _ _ _ => False
            | .engine _ _ => False
            | .scan _ => False
            | _ => True
          let leaves (r : PageReq) : Prop := Acts (.atsTranslationCompletion bh n .none_) s fun t =>
            refused t (q.holders.filter fun h => !h.asksPage) 0x13 0#64 ∧ (t.bulk bh).reqs = B.reqs.set n r
          (s.pageShare ≤ B.pageReqs → leaves w) ∧
          (B.pageReqs < s.pageShare → (∀ y ∈ B.reqs, y.st ≠ 2) → (quiet → leaves sent) ∧
            ∃ t, exec (.atsTranslationCompletion bh n .none_) s = .next t ∧ (t.bulk bh).reqs[n]? = some sent ∧
              ∀ k c va, q.holders = [.ctx k c] → q.asked = [(.ctx k c, va)] → (s.ctx k c).bound = true →
                (t.ctx k c).noticed = some (va.toNat / 65536))) ∧
        (∀ size, Acts (.atsTranslationCompletion bh n (.small size)) s fun t =>
          refused t q.holders 0x14 (BitVec.ofNat 64 size) ∧ (t.bulk bh).reqs = B.reqs.eraseIdx n)) ∧
      (q.st = 1 → (∀ y ∈ B.reqs, y.st ≠ 2) →
        Acts (.priResponse bh n 0) s (fun t => (t.bulk bh).reqs = B.reqs.set n { q with st := 0, stale := false }) ∧
        ∀ code, code ≠ 0 → Acts (.priResponse bh n code) s fun t =>
          refused t q.holders 0x13 (BitVec.ofNat 64 code) ∧ (t.bulk bh).reqs = B.reqs.eraseIdx n)) ∧
    (∀ pasid v m, X.bulks ≠ [] → Acts (.atsInvalidateRequest p pasid v m) s fun t =>
      (∀ tg, X.tagOf pasid = some tg → ∀ i ∈ X.bulks, ∀ e ∈ (t.bulk i).tlb,
        ¬(e.tag = tg.tag ∧ e.vpage < v + m ∧ v < e.vpage + e.pages)) ∧
      (∀ r ∈ (t.part p).ranges, ¬(r.pasid = pasid ∧ r.base / 65536 < v + m ∧ v < r.base / 65536 + r.len / 65536)) ∧
      (∀ i ∈ X.bulks, ∀ y ∈ (t.bulk i).reqs, y.pasid = pasid → y.st = 0 → y.stale = true) ∧
      ∃ d, (t.part p).invals = X.invals ++ [d] ∧ d.pasid = pasid) ∧
    (∀ i rest m, X.invals = i :: rest → i.bound = some m → s.drained p (· == i.pasid) m = true → Acts (.invalidateCompletion p) s fun t =>
      ((∀ j ∈ rest, j.pasid ≠ i.pasid) → (t.part p).invals = rest) ∧ (t.part p).invals.length = rest.length)

/-- Events of the management controller (R153, R401-R408): a module reset measures a good image or names the step that refused
it, and while it is refused BAR0 shows only that; a quote, of the measurements and the TS at its GO, goes to host memory; PWRCAP keeps to its limits; samples, throttling and power gating do as their entries say, and a
register write leaves the defined bits. -/
def Obligations.ManagementEvents : Prop :=
  ∀ (s : State) (img : BootImage) (x : Word) (now peak tdie tin u b : Nat) (on pass : Bool),
    (let good := Config.shake256 64 img.key = Config.fusedKeyDigest ∧ Config.slhVerify img.key img.body img.sig = true ∧
       Config.fusedMinVersion ≤ img.version;
     ∃ t, exec (.moduleReset img) s = .next t ∧ t.agenda = s.agenda ∧ t.parts = [] ∧ t.cores = [] ∧
      (good → t.pfGet 0x10000 = 1#64 ∧ t.pfGet 0x10008 = BitVec.ofNat 64 (img.version % 2 ^ 32) ∧ t.booting = true ∧
        t.meas 2 = List.replicate 64 0#8 ∧ t.cfgAnswer = .retry) ∧
      (¬good → ∃ i, (i = 1 ∨ i = 2 ∨ i = 3) ∧ t.pfGet 0x10000 = BitVec.ofNat 64 (3 + i * 2 ^ 8) ∧ t.booting = false ∧
        t.cfgAnswer = .normal ∧ ∀ o, o ≠ 0x10000 → t.bar0Read o = 0#64)) ∧
    (∃ t, exec .firmwareRunning s = .next t ∧
      (s.booting = true → t.pfGet 0x10000 = 2#64 ∧ t.booting = false ∧ t.cfgAnswer = .normal ∧ ∀ o, t.bar0Read o = t.pfGet o) ∧
      (s.booting = false → t = s)) ∧
    (s.inService = true → (s.pfGet 0x10228).getLsbD 0 = true → (s.portUp.any id) = true → s.quoteMeas.length = 192 →
      let k := 2 ^ 64 + (s.pfGet 0x10220).toNat
      ∃ t, exec .quoteRequest s = .next t ∧ t.pfGet 0x10228 = 2#64 ∧ t.mem.bytes k 288 = s.quoteHead ∧
        ∀ a, a < k ∨ k + 30080 ≤ a → t.mem.byte a = s.mem.byte a) ∧
    (∃ t, exec (.pwrcapWrite x) s = .next t ∧ t.mem = s.mem ∧
      (s.inService = true → 1000 ≤ bitsOf x 0 12 → bitsOf x 0 12 ≤ 2800 → t.pfGet 0x10010 = BitVec.ofNat 64 (bitsOf x 0 12)) ∧
      (bitsOf x 0 12 < 1000 ∨ 2800 < bitsOf x 0 12 → t = s)) ∧
    (∃ t, exec (.powerSample now peak tdie tin) s = .next t ∧ t.mem = s.mem ∧
      (now < 4096 → peak < 4096 → tdie < 256 → tin < 256 → bitsOf (t.pfGet 0x10018) 0 12 = now ∧ bitsOf (t.pfGet 0x10018) 16 12 = peak ∧
        bitsOf (t.pfGet 0x10028) 0 8 = tdie ∧ bitsOf (t.pfGet 0x10028) 8 8 = tin)) ∧
    (let above := decide (bitsOf (s.pfGet 0x10010) 0 12 < bitsOf (s.pfGet 0x10018) 0 12)
     let hot := decide (105 ≤ bitsOf (s.pfGet 0x10028) 0 8);
     (∃ t, exec (.powerThrottle above) s = .next t ∧ t.powerThrottle = above ∧ t.mem = s.mem ∧
      (t.pfGet 0x10020).getLsbD 0 = (above || s.thermalThrottle)) ∧
     (∃ t, exec (.thermalThrottle hot) s = .next t ∧ t.thermalThrottle = hot ∧ t.mem = s.mem ∧
      (t.pfGet 0x10020).getLsbD 0 = (s.powerThrottle || hot)) ∧
     (on ≠ above → exec (.powerThrottle on) s = .next s) ∧ (on ≠ hot → exec (.thermalThrottle on) s = .next s)) ∧
    (b < 8 → (∀ i, i < 6 → s.ownerOf (6 * b + i) = none) → ∃ t, exec (.overtempReset b pass) s = .next t ∧
      ∀ i, i < 6 → t.pfGet (0x30000 + 8 * (6 * b + i)) = (if pass then 0#64 else 2#64)) ∧
    ((s.partOf (u / 8)).isSome = true → u % 8 < 6 → s.clusterWork u = false → (s.unit u).idleAt + 1000000 ≤ s.ts →
      (∀ i c, i < 4 → 1 ≤ c → c < 16 → (s.ctx (32 * (u / 8) + 4 * (u % 8) + i) c).bound = false) →
      Acts (.clusterPowerGate u) s fun t => (t.unit u).gated = true ∧ ∀ i, i < 4 →
        (∀ k, t.l1Get (32 * (u / 8) + 4 * (u % 8) + i) k = .i) ∧ (t.core (32 * (u / 8) + 4 * (u % 8) + i)).l1i = []) ∧
    (s.clusterWork u = true ∨ s.clusterBound u = true → Acts (.clusterUngate u) s fun t => (t.unit u).gated = false) ∧
    (s.inService = true →
      let sets (off : Nat) (v : Word) : Prop := ∃ t, exec (.registerWrite off x) s = .next t ∧ t.pfGet off = v ∧ t.mem = s.mem ∧
        ∀ o, o % 8 = 0 → o ≠ off → t.pfGet o = s.pfGet o
      sets 0x20000 (x &&& 0xffff#64) ∧ (∀ i, i < 5 → sets (0x10200 + 8 * i) x) ∧
      (x.getLsbD 0 = true → (s.pfGet 0x10228).getLsbD 0 = false → sets 0x10228 1#64 ∧ ∃ t, exec (.registerWrite 0x10228 x) s = .next t ∧
        t.quoteAt = s.ts ∧ t.quoteMeas = s.meas 0 ++ s.meas 1 ++ s.meas 2) ∧
      ((s.pfGet 0x10228).getLsbD 0 = true → exec (.registerWrite 0x10228 x) s = .next s) ∧
      (b < 48 → x.getLsbD 8 = true → sets (0x30000 + 8 * b) (s.pfGet (0x30000 + 8 * b) ||| 0x100#64)) ∧
      ∀ p, p < 48 →
        (s.busy p = false → x.toNat % 256 ∈ [1, 2, 3] → ∃ t, exec (.registerWrite (partBase p + 0x08) x) s = .next t ∧
          t.busy p = true ∧ t.cmd p = x.toNat % 256 ∧ t.cmdArg p = x.toNat / 256 % 256 ∧ t.mem = s.mem) ∧
        (s.busy p = true → exec (.registerWrite (partBase p + 0x08) x) s = .next s) ∧
        exec (.registerWrite (partBase p + 0x10) x) s = .next s ∧
        (s.pstate p = 0 → (s.part p).bulks = [] → sets (partBase p) (x &&& BitVec.ofNat 64 (2 ^ 48 - 1)) ∧
          sets (partBase p + 0x48) x) ∧
        (s.pstate p ≠ 0 → ∃ t, exec (.registerWrite (partBase p + 0x48) x) s = .next t ∧ t.pf = s.pf))

/-- Right after module reset (R141, R345, R364, R401, R402, R408): TS is 0, no partition holds a bulkhead and every bulkhead is
free, no context is bound and no thread exists, the device is not in service, the measurement registers are zero, PWRCAP is 2,800,
every word is full, every g register of every context is 0, and memory is in its canonical form. That an unwritten byte reads 0 is the
model's choice (log 3), and so is the 0 of the g registers, g1-g5 among them, for which R61 gives no reset value (log 10). -/
def Obligations.ResetState : Prop :=
  let s := State.reset
  s.memOk ∧ s.ts = 0 ∧ s.inService = false ∧ bitsOf (s.pfGet 0x10010) 0 12 = 2800 ∧
  (∀ i, i < 3 → s.meas i = List.replicate 64 0#8) ∧
  (∀ k, s.mem.full k = true ∧ s.mem.byte k = 0#8) ∧
  (∀ p, s.pstate p = 0 ∧ s.busy p = false ∧ (s.part p).bulks = [] ∧ (s.part p).ranges = [] ∧ s.partOf p = none) ∧
  (∀ b, s.bstate b = 0) ∧
  (∀ k c, (s.ctx k c).bound = false ∧ (∀ n, (s.ctx k c).regs.getG n = 0#64)) ∧
  (∀ t, s.findRec t = none) ∧
  (∀ u i, ((s.unit u).gates = [] ∧ (s.unit u).mq = [] ∧ (s.unit u).sq = []) ∧ s.l1Get u i = .i)

/-- The memory keeps its one canonical form (addresses strictly rising, no entry equal to what an unlisted one reads as) in every
step, of whatever turn: an instruction of any family, a device event, a tick (R4, R141, R146, R353). -/
def Obligations.StepKeepsMemoryCanonical : Prop :=
  ∀ s t : State, s.memOk → step s = .next t → t.memOk

/-- Decoding and encoding agree (R37, R39-R46): every well-formed encoded instruction, with every operand at every value,
is what the decoder reads from its bytes, whatever follows them; and bytes that decode are the encoding of the well-formed
instruction they decode to, so no bit of an encoding is passed over and each word has one meaning. -/
def Obligations.EncodeDecodeRoundTrip : Prop :=
  (∀ (i : Instr) (rest : List Byte), i.wf = true → i.isEvent = false → decode (encode i ++ rest) = .ok (i, i.size)) ∧
  ∀ (bs : List Byte) (i : Instr) (n : Nat), decode bs = .ok (i, n) → i.wf = true ∧ n = i.size ∧ bs.take n = encode i

/-- Words written out from the encoding tables (R39-R46), fields from bit 31 down: func, rb, ra, rd, major, the width bit 1; and
parcels, minor below its operands, the width bit 0. -/
def Obligations.DecodeWords : Prop :=
  let word (w : BitVec 32) (i : Instr) : Prop := decodeTableWord 32 w.toNat = some i ∧ i.size = 4
  let parcel (h : BitVec 16) (i : Instr) : Prop := decodeTableWord 16 h.toNat = some i ∧ i.size = 2
  word (0b000000_0000_00010_00001_00011_000000_1#32) (.add 3 1 2) ∧
  word (0b000001_1010_00000_00110_00101_000001_1#32) (.sext .h 5 6) ∧
  word (0b111111111111111_00001_00011_000010_1#32) (.addi 3 1 (-1)) ∧
  word (0b000011_0000_00111_00110_00101_001010_1#32) (.fadd .f64 .rtz 5 6 7) ∧
  word (0b111111111111101_00010_00001_001101_1#32) (.blt 1 2 (-3)) ∧
  word (0b1111111111111111111111111_010010_1#32) (.jal (-1)) ∧
  word (0b000000_0001_00000_00111_00010_010100_1#32) (.gete .e 2 7) ∧
  word (0b00000010_001_01_10_01001_00100_010101_1#32) (.ld .w .acq .clu 4 9 2) ∧
  word (0b11111111_011_10_11_01010_01011_010111_1#32) (.st .d .rel .part 11 10 (-1)) ∧
  word (0b001110_0000_00011_00010_00001_011101_1#32) (.amoAdd false .rel .part 1 2 3) ∧
  word (0b00000_00001_00011_00010_00001_011111_1#32) (.vadd .bf16 1 2 3) ∧
  word (0b101_00_10000_00011_00010_00001_100001_1#32) (.vfma 5 .f32 1 2 3) ∧
  word (0b00_010_01001_00011_00010_00000_100010_1#32) (.vcmp .lt 9 2 3) ∧
  word (0b00000000_000_00_0_1_00010_10111_100101_1#32) (.vst .plain .core 23 2 0) ∧
  word (0b100000_0000_00011_00010_00000_101001_1#32) (.xclr true 2 3) ∧
  word (0b1_001_11_0000_00101_00000_00100_101010_1#32) (.mma { dec := true, scope := .clu, rel := true, acq := true } 4 5) ∧
  word (0b000000_0100_00011_00010_00001_101011_1#32) (.gate 1 2 3) ∧
  word (0b000000_0000_00000_00010_00001_101100_1#32) (.watch 1 2) ∧
  word (0b000000_0001_00000_00010_00001_101101_1#32) (.sendn 1 2) ∧
  word (0b000000_0100_00000_00010_00001_101110_1#32) (.treap 1 2) ∧
  word (0b000000_0000_00000_00010_00001_101111_1#32) (.nest 1 2) ∧
  word (0b000000_0000_00011_00010_00001_110000_1#32) (.svc 1 2 3) ∧
  parcel (0b111111_00011_0010_0#16) (.addiS 3 (-1)) ∧
  parcel (0b0_00010_00001_0001_0#16) (.mov 1 2) ∧
  parcel (0b111110_00001_0011_0#16) (.bz 1 (-2)) ∧
  parcel (0b000000_00000_1110_0#16) (.endThread)

/-- A step runs the decoded instruction (R38, R51, R66, R254, R285, R410): the bytes at a context's PC, in a code range registered
under its VF's PASID and not marked in its pool bitmap, are fetched as the instruction they decode to; a fetch outside every such range
is fault 0x04, and one of a marked parcel 0x05. A core's cycle issues from the first context of the rotation that is ready and spaced:
the step is exec of its instruction at the state that issuing leaves, where memory, the PF registers, and the registers and PC of the
context are as before, or the stop of its fetch fault with nothing else done, its PC field the address fetched; then the core samples
TS. With nothing in the agenda the core of the current context goes on to its next cycle in which a context issues; if there is none, a
result on its way to it arrives, or a suspension point of it takes effect, or a tick passes; a core's cycle or an event in the agenda is
the turn (log 1), after an access that has waited at its home and whose turn has come there (log 96). -/
def Obligations.StepRunsDecoded : Prop :=
  ∀ (s : State) (k c n : Nat) (i : Instr) (rest : List Turn),
    let x := s.ctx k c
    let pc := x.pc.toNat
    let r := s.recOf x.tid
    let range := (s.part r.part).rangeOf (s.pasid r.part r.vf) pc
    -- the core in its cycle, from a state just before it
    let cycle (w : State) : State := (w.modCore k fun y => { y with cycle := y.cycle + 1, perfWas := y.perf }).count k 1 none 1
    let picked (v : State) : Option Nat := (rotation k (v.core k).rot).find? fun c => v.ready k c && v.spaced k c
    let runs (w : State) : Prop :=
      let u := (cycle w).issuing k c i n
      picked (cycle w) = some c → step s = Out.then_ (exec i u) (fun t => t.sampleTs k s.ts) ∧ u.mem = s.mem ∧ u.pf = s.pf ∧
        u.cc.regs = x.regs ∧ u.cc.pc = x.pc ∧ u.cur = (k, c)
    let stops (w : State) (code : Nat) : Prop :=
      let u : State := { cycle w with cur := (k, c) }
      let stop : Stop := { code := some code, pc := x.pc, resume := x.stopPc, addr := x.pc, detail := 0#64, late := false,
                           seq := x.retired + 1, rseq := x.retired + 1, callers := [] }
      picked (cycle w) = some c → step s = .next ((u.beginStop k c stop).sampleTs k s.ts) ∧ u.mem = s.mem ∧ u.cc.regs = x.regs
    (∀ g, range = some g → (g.marked s.mem pc = false → decode (g.bytes s.mem pc) = .ok (i, n) → s.fetch k c = .instr i n) ∧
      (g.marked s.mem pc = true → s.fetch k c = .fault 0x05)) ∧
    (range = none → s.fetch k c = .fault 0x04) ∧
    (∀ b m q, s.homeDue = some (b, m, q) → step s = s.homeTurn b m q) ∧
    (s.homeDue = none →
      ((s.core k).perf = [] →
        (s.agenda = .cycle k :: rest → (s.core k).busy = 0 → (s.fetch k c = .instr i n → runs { s with agenda := rest }) ∧
          ∀ code, s.fetch k c = .fault code → stops { s with agenda := rest } code) ∧
        ∀ t, s.agenda = [] → s.cur.1 = k → s.nextIssue k = some t →
          (s.fetch k c = .instr i n → runs (s.idleTo k t)) ∧ (∀ code, s.fetch k c = .fault code → stops (s.idleTo k t) code) ∧
          (picked (cycle (s.idleTo k t))).isSome = true) ∧
      (s.agenda = [] → s.nextIssue s.cur.1 = none →
        (∀ c n, s.nextResult s.cur.1 = some (c, n) → step s = s.resultTurn s.cur.1 c n) ∧
        (s.nextResult s.cur.1 = none → ∀ c, s.nextSuspension s.cur.1 = some c → step s = exec (.suspensionComplete s.cur.1 c) s) ∧
        (s.nextResult s.cur.1 = none → s.nextSuspension s.cur.1 = none → step s = .next { s with ts := s.ts + 1 })) ∧
      (∀ j : Instr, s.agenda = .event j :: rest → j.isEvent = true → j.wf = true → step s = exec j { s with agenda := rest }) ∧
      (∀ m, s.agenda = .tick m :: rest → step s = .next { s with agenda := rest, ts := s.ts + m }))
end

