-- ==== Sys2Proof/Laws/FMap.lean ====
section
/-! SUPPORT. Finite maps: what a read after a write gives, for every list of pairs, and that writes keep the canonical
form. -/

namespace Sys2Proof.Machine

variable {β : Type}

theorem fget_fdel_same (d : β) (m : FMap β) (k : Nat) : fget d (fdel m k) k = d := by
  induction m with
  | nil => rfl
  | cons p m ih =>
    obtain ⟨k', x⟩ := p
    by_cases h : k' = k
    · subst h; simpa [fdel, List.filter] using ih
    · simpa [fdel, List.filter, h, fget] using ih

theorem fget_fdel_other (d : β) (m : FMap β) (k j : Nat) (h : j ≠ k) : fget d (fdel m k) j = fget d m j := by
  induction m with
  | nil => rfl
  | cons p m ih =>
    obtain ⟨k', x⟩ := p
    by_cases hk : k' = k
    · subst hk
      have : fdel ((k', x) :: m) k' = fdel m k' := by simp [fdel, List.filter]
      rw [this, ih, fget, if_neg (Ne.symm h)]
    · have : fdel ((k', x) :: m) k = (k', x) :: fdel m k := by simp [fdel, List.filter, hk]
      simp only [this, fget, ih]

theorem fget_fins (d : β) (m : FMap β) (k : Nat) (x : β) (h : ∀ p ∈ m, p.1 ≠ k) (j : Nat) :
    fget d (fins k x m) j = if k = j then x else fget d m j := by
  induction m with
  | nil => simp [fins, fget]
  | cons p m ih =>
    obtain ⟨k', y⟩ := p
    have hk : k' ≠ k := h (k', y) (by simp)
    have hm : ∀ p ∈ m, p.1 ≠ k := fun p hp => h p (by simp [hp])
    unfold fins
    by_cases hlt : k < k'
    · simp [hlt, fget]
    · simp only [hlt, if_false, fget, ih hm]
      by_cases hj : k' = j
      · subst hj; simp [Ne.symm hk]
      · simp [hj]

theorem fdel_ne (m : FMap β) (k : Nat) : ∀ p ∈ fdel m k, p.1 ≠ k := by
  intro p hp
  simpa using (List.mem_filter.1 hp).2

@[simp] theorem fget_fput_same (d : β) (m : FMap β) (k : Nat) (x : β) : fget d (fput m k x) k = x := by
  simp [fput, fget_fins d _ k x (fdel_ne m k)]

@[simp] theorem fget_fput_other (d : β) (m : FMap β) (k j : Nat) (x : β) (h : j ≠ k) : fget d (fput m k x) j = fget d m j := by
  rw [fput, fget_fins d _ k x (fdel_ne m k), if_neg (Ne.symm h), fget_fdel_other d m k j h]

theorem fget_fput (d : β) (m : FMap β) (k j : Nat) (x : β) : fget d (fput m k x) j = if j = k then x else fget d m j := by
  by_cases h : j = k
  · subst h; simp
  · simp [h]

theorem fget_fset [DecidableEq β] (d : β) (m : FMap β) (k j : Nat) (x : β) :
    fget d (fset d m k x) j = if j = k then x else fget d m j := by
  unfold fset
  by_cases hx : x = d
  · subst hx
    by_cases h : j = k
    · subst h; simp [fget_fdel_same]
    · simp [h, fget_fdel_other _ m k j h]
  · simp [hx, fget_fput]

/-- Every key of the list is greater than k. -/
def FMap.above (k : Nat) (m : FMap β) : Prop := ∀ p ∈ m, k < p.1

theorem sorted_cons_iff (k : Nat) (x : β) (m : FMap β) :
    FMap.sorted ((k, x) :: m) = true ↔ FMap.above k m ∧ m.sorted = true := by
  induction m generalizing k x with
  | nil => simp [FMap.sorted, FMap.above]
  | cons p m ih =>
    obtain ⟨k', y⟩ := p
    simp only [FMap.sorted, Bool.and_eq_true, decide_eq_true_eq]
    constructor
    · rintro ⟨h1, h2⟩
      refine ⟨?_, h2⟩
      have := ((ih k' y).1 h2).1
      intro p hp
      rcases List.mem_cons.1 hp with rfl | hp
      · exact h1
      · exact Nat.lt_trans h1 (this p hp)
    · rintro ⟨h1, h2⟩
      exact ⟨h1 (k', y) (by simp), h2⟩

theorem sorted_filter (m : FMap β) (f : Nat × β → Bool) (h : m.sorted = true) : FMap.sorted (m.filter f) = true := by
  induction m with
  | nil => rfl
  | cons p m ih =>
    obtain ⟨k, x⟩ := p
    obtain ⟨h1, h2⟩ := (sorted_cons_iff k x m).1 h
    by_cases hf : f (k, x)
    · rw [List.filter_cons_of_pos hf, sorted_cons_iff]
      exact ⟨fun p hp => h1 p ((List.mem_filter.1 hp).1), ih h2⟩
    · rw [List.filter_cons_of_neg hf]; exact ih h2

theorem mem_fins (k : Nat) (x : β) (m : FMap β) (p : Nat × β) : p ∈ fins k x m ↔ p = (k, x) ∨ p ∈ m := by
  induction m with
  | nil => simp [fins]
  | cons q m ih =>
    obtain ⟨k', y⟩ := q
    unfold fins
    by_cases h : k < k'
    · simp [h]
    · simp only [h, if_false, List.mem_cons, ih]
      exact or_left_comm

theorem sorted_fins (k : Nat) (x : β) (m : FMap β) (h : m.sorted = true) (hk : ∀ p ∈ m, p.1 ≠ k) :
    (fins k x m).sorted = true := by
  induction m with
  | nil => rfl
  | cons q m ih =>
    obtain ⟨k', y⟩ := q
    obtain ⟨h1, h2⟩ := (sorted_cons_iff k' y m).1 h
    have hne : k' ≠ k := hk (k', y) (by simp)
    unfold fins
    by_cases hlt : k < k'
    · simp only [hlt, if_true]
      rw [sorted_cons_iff]
      refine ⟨?_, h⟩
      intro p hp
      rcases List.mem_cons.1 hp with rfl | hp
      · exact hlt
      · exact Nat.lt_trans hlt (h1 p hp)
    · simp only [hlt, if_false]
      rw [sorted_cons_iff]
      refine ⟨?_, ih h2 fun p hp => hk p (by simp [hp])⟩
      intro p hp
      rcases (mem_fins k x m p).1 hp with rfl | hp
      · exact Nat.lt_of_le_of_ne (Nat.not_lt.1 hlt) hne
      · exact h1 p hp

theorem sorted_fdel (m : FMap β) (k : Nat) (h : m.sorted = true) : (fdel m k).sorted = true := sorted_filter m _ h
theorem sorted_fput (m : FMap β) (k : Nat) (x : β) (h : m.sorted = true) : (fput m k x).sorted = true :=
  sorted_fins k x _ (sorted_fdel m k h) (fdel_ne m k)
theorem sorted_fset [DecidableEq β] (d : β) (m : FMap β) (k : Nat) (x : β) (h : m.sorted = true) :
    (fset d m k x).sorted = true := by
  unfold fset; split
  · exact sorted_fdel m k h
  · exact sorted_fput m k x h

theorem mem_fset [DecidableEq β] (d : β) (m : FMap β) (k : Nat) (x : β) (p : Nat × β) (hp : p ∈ fset d m k x) :
    (p = (k, x) ∧ x ≠ d) ∨ (p ∈ m ∧ p.1 ≠ k) := by
  unfold fset at hp
  split at hp
  · exact .inr ⟨(List.mem_filter.1 hp).1, fdel_ne m k p hp⟩
  · rename_i hx
    rcases (mem_fins k x _ p).1 hp with rfl | hp
    · exact .inl ⟨rfl, hx⟩
    · exact .inr ⟨(List.mem_filter.1 hp).1, fdel_ne m k p hp⟩

/-- A write through `fset` keeps the canonical form. -/
theorem wf_fset [DecidableEq β] (d : β) (m : FMap β) (k : Nat) (x : β) (h : FMap.wf d m = true) :
    FMap.wf d (fset d m k x) = true := by
  simp only [FMap.wf, Bool.and_eq_true, List.all_eq_true, decide_eq_true_eq] at h ⊢
  refine ⟨sorted_fset d m k x h.1, fun p hp => ?_⟩
  rcases mem_fset d m k x p hp with ⟨rfl, hx⟩ | ⟨hm, -⟩
  · exact hx
  · exact h.2 p hm

theorem wf_filter [DecidableEq β] (d : β) (m : FMap β) (f : Nat × β → Bool) (h : FMap.wf d m = true) :
    FMap.wf d (m.filter f) = true := by
  simp only [FMap.wf, Bool.and_eq_true, List.all_eq_true, decide_eq_true_eq] at h ⊢
  exact ⟨sorted_filter m f h.1, fun p hp => h.2 p ((List.mem_filter.1 hp).1)⟩

end Sys2Proof.Machine
end

