-- ==== Sys2Proof/Laws/State.lean ====
section
/-! SUPPORT. What each update of State leaves as it was, field by field, and what the accessors read after it. -/

namespace Sys2Proof.Machine

@[simp] theorem State.modCore_mem (s : State) (k : Nat) (f : Core → Core) : (s.modCore k f).mem = s.mem := rfl
@[simp] theorem State.modCore_ts (s : State) (k : Nat) (f : Core → Core) : (s.modCore k f).ts = s.ts := rfl
@[simp] theorem State.modCore_units (s : State) (k : Nat) (f : Core → Core) : (s.modCore k f).units = s.units := rfl
@[simp] theorem State.modCore_bulks (s : State) (k : Nat) (f : Core → Core) : (s.modCore k f).bulks = s.bulks := rfl
@[simp] theorem State.modCore_parts (s : State) (k : Nat) (f : Core → Core) : (s.modCore k f).parts = s.parts := rfl
@[simp] theorem State.modCore_pf (s : State) (k : Nat) (f : Core → Core) : (s.modCore k f).pf = s.pf := rfl
@[simp] theorem State.modCore_pfLate (s : State) (k : Nat) (f : Core → Core) : (s.modCore k f).pfLate = s.pfLate := rfl
@[simp] theorem State.modCore_proxy (s : State) (k : Nat) (f : Core → Core) : (s.modCore k f).proxy = s.proxy := rfl
@[simp] theorem State.modCore_prAlloc (s : State) (k : Nat) (f : Core → Core) : (s.modCore k f).prAlloc = s.prAlloc := rfl
@[simp] theorem State.modCore_bar4 (s : State) (k : Nat) (f : Core → Core) : (s.modCore k f).bar4 = s.bar4 := rfl
@[simp] theorem State.modCore_hostOps (s : State) (k : Nat) (f : Core → Core) : (s.modCore k f).hostOps = s.hostOps := rfl
@[simp] theorem State.modCore_remoteOps (s : State) (k : Nat) (f : Core → Core) : (s.modCore k f).remoteOps = s.remoteOps := rfl
@[simp] theorem State.modCore_opSeq (s : State) (k : Nat) (f : Core → Core) : (s.modCore k f).opSeq = s.opSeq := rfl
@[simp] theorem State.modCore_portUp (s : State) (k : Nat) (f : Core → Core) : (s.modCore k f).portUp = s.portUp := rfl
@[simp] theorem State.modCore_portCxl (s : State) (k : Nat) (f : Core → Core) : (s.modCore k f).portCxl = s.portCxl := rfl
@[simp] theorem State.modCore_reedDown (s : State) (k : Nat) (f : Core → Core) : (s.modCore k f).reedDown = s.reedDown := rfl
@[simp] theorem State.modCore_laneStopped (s : State) (k : Nat) (f : Core → Core) : (s.modCore k f).laneStopped = s.laneStopped := rfl
@[simp] theorem State.modCore_booting (s : State) (k : Nat) (f : Core → Core) : (s.modCore k f).booting = s.booting := rfl
@[simp] theorem State.modCore_quoteAt (s : State) (k : Nat) (f : Core → Core) : (s.modCore k f).quoteAt = s.quoteAt := rfl
@[simp] theorem State.modCore_powerThrottle (s : State) (k : Nat) (f : Core → Core) : (s.modCore k f).powerThrottle = s.powerThrottle := rfl
@[simp] theorem State.modCore_thermalThrottle (s : State) (k : Nat) (f : Core → Core) : (s.modCore k f).thermalThrottle = s.thermalThrottle := rfl
@[simp] theorem State.modCore_free (s : State) (k : Nat) (f : Core → Core) : (s.modCore k f).free = s.free := rfl
@[simp] theorem State.modCore_cur (s : State) (k : Nat) (f : Core → Core) : (s.modCore k f).cur = s.cur := rfl
@[simp] theorem State.modCore_agenda (s : State) (k : Nat) (f : Core → Core) : (s.modCore k f).agenda = s.agenda := rfl

@[simp] theorem State.modCtx_mem (s : State) (k c : Nat) (f : Ctx → Ctx) : (s.modCtx k c f).mem = s.mem := rfl
@[simp] theorem State.modCtx_ts (s : State) (k c : Nat) (f : Ctx → Ctx) : (s.modCtx k c f).ts = s.ts := rfl
@[simp] theorem State.modCtx_units (s : State) (k c : Nat) (f : Ctx → Ctx) : (s.modCtx k c f).units = s.units := rfl
@[simp] theorem State.modCtx_bulks (s : State) (k c : Nat) (f : Ctx → Ctx) : (s.modCtx k c f).bulks = s.bulks := rfl
@[simp] theorem State.modCtx_parts (s : State) (k c : Nat) (f : Ctx → Ctx) : (s.modCtx k c f).parts = s.parts := rfl
@[simp] theorem State.modCtx_pf (s : State) (k c : Nat) (f : Ctx → Ctx) : (s.modCtx k c f).pf = s.pf := rfl
@[simp] theorem State.modCtx_pfLate (s : State) (k c : Nat) (f : Ctx → Ctx) : (s.modCtx k c f).pfLate = s.pfLate := rfl
@[simp] theorem State.modCtx_proxy (s : State) (k c : Nat) (f : Ctx → Ctx) : (s.modCtx k c f).proxy = s.proxy := rfl
@[simp] theorem State.modCtx_prAlloc (s : State) (k c : Nat) (f : Ctx → Ctx) : (s.modCtx k c f).prAlloc = s.prAlloc := rfl
@[simp] theorem State.modCtx_bar4 (s : State) (k c : Nat) (f : Ctx → Ctx) : (s.modCtx k c f).bar4 = s.bar4 := rfl
@[simp] theorem State.modCtx_hostOps (s : State) (k c : Nat) (f : Ctx → Ctx) : (s.modCtx k c f).hostOps = s.hostOps := rfl
@[simp] theorem State.modCtx_remoteOps (s : State) (k c : Nat) (f : Ctx → Ctx) : (s.modCtx k c f).remoteOps = s.remoteOps := rfl
@[simp] theorem State.modCtx_opSeq (s : State) (k c : Nat) (f : Ctx → Ctx) : (s.modCtx k c f).opSeq = s.opSeq := rfl
@[simp] theorem State.modCtx_portUp (s : State) (k c : Nat) (f : Ctx → Ctx) : (s.modCtx k c f).portUp = s.portUp := rfl
@[simp] theorem State.modCtx_portCxl (s : State) (k c : Nat) (f : Ctx → Ctx) : (s.modCtx k c f).portCxl = s.portCxl := rfl
@[simp] theorem State.modCtx_reedDown (s : State) (k c : Nat) (f : Ctx → Ctx) : (s.modCtx k c f).reedDown = s.reedDown := rfl
@[simp] theorem State.modCtx_laneStopped (s : State) (k c : Nat) (f : Ctx → Ctx) : (s.modCtx k c f).laneStopped = s.laneStopped := rfl
@[simp] theorem State.modCtx_booting (s : State) (k c : Nat) (f : Ctx → Ctx) : (s.modCtx k c f).booting = s.booting := rfl
@[simp] theorem State.modCtx_quoteAt (s : State) (k c : Nat) (f : Ctx → Ctx) : (s.modCtx k c f).quoteAt = s.quoteAt := rfl
@[simp] theorem State.modCtx_powerThrottle (s : State) (k c : Nat) (f : Ctx → Ctx) : (s.modCtx k c f).powerThrottle = s.powerThrottle := rfl
@[simp] theorem State.modCtx_thermalThrottle (s : State) (k c : Nat) (f : Ctx → Ctx) : (s.modCtx k c f).thermalThrottle = s.thermalThrottle := rfl
@[simp] theorem State.modCtx_free (s : State) (k c : Nat) (f : Ctx → Ctx) : (s.modCtx k c f).free = s.free := rfl
@[simp] theorem State.modCtx_cur (s : State) (k c : Nat) (f : Ctx → Ctx) : (s.modCtx k c f).cur = s.cur := rfl
@[simp] theorem State.modCtx_agenda (s : State) (k c : Nat) (f : Ctx → Ctx) : (s.modCtx k c f).agenda = s.agenda := rfl

@[simp] theorem State.modCur_mem (s : State) (f : Ctx → Ctx) : (s.modCur f).mem = s.mem := rfl
@[simp] theorem State.modCur_ts (s : State) (f : Ctx → Ctx) : (s.modCur f).ts = s.ts := rfl
@[simp] theorem State.modCur_units (s : State) (f : Ctx → Ctx) : (s.modCur f).units = s.units := rfl
@[simp] theorem State.modCur_bulks (s : State) (f : Ctx → Ctx) : (s.modCur f).bulks = s.bulks := rfl
@[simp] theorem State.modCur_parts (s : State) (f : Ctx → Ctx) : (s.modCur f).parts = s.parts := rfl
@[simp] theorem State.modCur_pf (s : State) (f : Ctx → Ctx) : (s.modCur f).pf = s.pf := rfl
@[simp] theorem State.modCur_pfLate (s : State) (f : Ctx → Ctx) : (s.modCur f).pfLate = s.pfLate := rfl
@[simp] theorem State.modCur_proxy (s : State) (f : Ctx → Ctx) : (s.modCur f).proxy = s.proxy := rfl
@[simp] theorem State.modCur_prAlloc (s : State) (f : Ctx → Ctx) : (s.modCur f).prAlloc = s.prAlloc := rfl
@[simp] theorem State.modCur_bar4 (s : State) (f : Ctx → Ctx) : (s.modCur f).bar4 = s.bar4 := rfl
@[simp] theorem State.modCur_hostOps (s : State) (f : Ctx → Ctx) : (s.modCur f).hostOps = s.hostOps := rfl
@[simp] theorem State.modCur_remoteOps (s : State) (f : Ctx → Ctx) : (s.modCur f).remoteOps = s.remoteOps := rfl
@[simp] theorem State.modCur_opSeq (s : State) (f : Ctx → Ctx) : (s.modCur f).opSeq = s.opSeq := rfl
@[simp] theorem State.modCur_portUp (s : State) (f : Ctx → Ctx) : (s.modCur f).portUp = s.portUp := rfl
@[simp] theorem State.modCur_portCxl (s : State) (f : Ctx → Ctx) : (s.modCur f).portCxl = s.portCxl := rfl
@[simp] theorem State.modCur_reedDown (s : State) (f : Ctx → Ctx) : (s.modCur f).reedDown = s.reedDown := rfl
@[simp] theorem State.modCur_laneStopped (s : State) (f : Ctx → Ctx) : (s.modCur f).laneStopped = s.laneStopped := rfl
@[simp] theorem State.modCur_booting (s : State) (f : Ctx → Ctx) : (s.modCur f).booting = s.booting := rfl
@[simp] theorem State.modCur_quoteAt (s : State) (f : Ctx → Ctx) : (s.modCur f).quoteAt = s.quoteAt := rfl
@[simp] theorem State.modCur_powerThrottle (s : State) (f : Ctx → Ctx) : (s.modCur f).powerThrottle = s.powerThrottle := rfl
@[simp] theorem State.modCur_thermalThrottle (s : State) (f : Ctx → Ctx) : (s.modCur f).thermalThrottle = s.thermalThrottle := rfl
@[simp] theorem State.modCur_free (s : State) (f : Ctx → Ctx) : (s.modCur f).free = s.free := rfl
@[simp] theorem State.modCur_cur (s : State) (f : Ctx → Ctx) : (s.modCur f).cur = s.cur := rfl
@[simp] theorem State.modCur_agenda (s : State) (f : Ctx → Ctx) : (s.modCur f).agenda = s.agenda := rfl

@[simp] theorem State.modUnit_mem (s : State) (u : Nat) (f : Clus → Clus) : (s.modUnit u f).mem = s.mem := rfl
@[simp] theorem State.modUnit_ts (s : State) (u : Nat) (f : Clus → Clus) : (s.modUnit u f).ts = s.ts := rfl
@[simp] theorem State.modUnit_cores (s : State) (u : Nat) (f : Clus → Clus) : (s.modUnit u f).cores = s.cores := rfl
@[simp] theorem State.modUnit_bulks (s : State) (u : Nat) (f : Clus → Clus) : (s.modUnit u f).bulks = s.bulks := rfl
@[simp] theorem State.modUnit_parts (s : State) (u : Nat) (f : Clus → Clus) : (s.modUnit u f).parts = s.parts := rfl
@[simp] theorem State.modUnit_pf (s : State) (u : Nat) (f : Clus → Clus) : (s.modUnit u f).pf = s.pf := rfl
@[simp] theorem State.modUnit_pfLate (s : State) (u : Nat) (f : Clus → Clus) : (s.modUnit u f).pfLate = s.pfLate := rfl
@[simp] theorem State.modUnit_proxy (s : State) (u : Nat) (f : Clus → Clus) : (s.modUnit u f).proxy = s.proxy := rfl
@[simp] theorem State.modUnit_prAlloc (s : State) (u : Nat) (f : Clus → Clus) : (s.modUnit u f).prAlloc = s.prAlloc := rfl
@[simp] theorem State.modUnit_bar4 (s : State) (u : Nat) (f : Clus → Clus) : (s.modUnit u f).bar4 = s.bar4 := rfl
@[simp] theorem State.modUnit_hostOps (s : State) (u : Nat) (f : Clus → Clus) : (s.modUnit u f).hostOps = s.hostOps := rfl
@[simp] theorem State.modUnit_remoteOps (s : State) (u : Nat) (f : Clus → Clus) : (s.modUnit u f).remoteOps = s.remoteOps := rfl
@[simp] theorem State.modUnit_opSeq (s : State) (u : Nat) (f : Clus → Clus) : (s.modUnit u f).opSeq = s.opSeq := rfl
@[simp] theorem State.modUnit_portUp (s : State) (u : Nat) (f : Clus → Clus) : (s.modUnit u f).portUp = s.portUp := rfl
@[simp] theorem State.modUnit_portCxl (s : State) (u : Nat) (f : Clus → Clus) : (s.modUnit u f).portCxl = s.portCxl := rfl
@[simp] theorem State.modUnit_reedDown (s : State) (u : Nat) (f : Clus → Clus) : (s.modUnit u f).reedDown = s.reedDown := rfl
@[simp] theorem State.modUnit_laneStopped (s : State) (u : Nat) (f : Clus → Clus) : (s.modUnit u f).laneStopped = s.laneStopped := rfl
@[simp] theorem State.modUnit_booting (s : State) (u : Nat) (f : Clus → Clus) : (s.modUnit u f).booting = s.booting := rfl
@[simp] theorem State.modUnit_quoteAt (s : State) (u : Nat) (f : Clus → Clus) : (s.modUnit u f).quoteAt = s.quoteAt := rfl
@[simp] theorem State.modUnit_powerThrottle (s : State) (u : Nat) (f : Clus → Clus) : (s.modUnit u f).powerThrottle = s.powerThrottle := rfl
@[simp] theorem State.modUnit_thermalThrottle (s : State) (u : Nat) (f : Clus → Clus) : (s.modUnit u f).thermalThrottle = s.thermalThrottle := rfl
@[simp] theorem State.modUnit_free (s : State) (u : Nat) (f : Clus → Clus) : (s.modUnit u f).free = s.free := rfl
@[simp] theorem State.modUnit_cur (s : State) (u : Nat) (f : Clus → Clus) : (s.modUnit u f).cur = s.cur := rfl
@[simp] theorem State.modUnit_agenda (s : State) (u : Nat) (f : Clus → Clus) : (s.modUnit u f).agenda = s.agenda := rfl

@[simp] theorem State.modBulk_mem (s : State) (b : Nat) (f : Bulk → Bulk) : (s.modBulk b f).mem = s.mem := rfl
@[simp] theorem State.modBulk_ts (s : State) (b : Nat) (f : Bulk → Bulk) : (s.modBulk b f).ts = s.ts := rfl
@[simp] theorem State.modBulk_cores (s : State) (b : Nat) (f : Bulk → Bulk) : (s.modBulk b f).cores = s.cores := rfl
@[simp] theorem State.modBulk_units (s : State) (b : Nat) (f : Bulk → Bulk) : (s.modBulk b f).units = s.units := rfl
@[simp] theorem State.modBulk_parts (s : State) (b : Nat) (f : Bulk → Bulk) : (s.modBulk b f).parts = s.parts := rfl
@[simp] theorem State.modBulk_pf (s : State) (b : Nat) (f : Bulk → Bulk) : (s.modBulk b f).pf = s.pf := rfl
@[simp] theorem State.modBulk_pfLate (s : State) (b : Nat) (f : Bulk → Bulk) : (s.modBulk b f).pfLate = s.pfLate := rfl
@[simp] theorem State.modBulk_proxy (s : State) (b : Nat) (f : Bulk → Bulk) : (s.modBulk b f).proxy = s.proxy := rfl
@[simp] theorem State.modBulk_prAlloc (s : State) (b : Nat) (f : Bulk → Bulk) : (s.modBulk b f).prAlloc = s.prAlloc := rfl
@[simp] theorem State.modBulk_bar4 (s : State) (b : Nat) (f : Bulk → Bulk) : (s.modBulk b f).bar4 = s.bar4 := rfl
@[simp] theorem State.modBulk_hostOps (s : State) (b : Nat) (f : Bulk → Bulk) : (s.modBulk b f).hostOps = s.hostOps := rfl
@[simp] theorem State.modBulk_remoteOps (s : State) (b : Nat) (f : Bulk → Bulk) : (s.modBulk b f).remoteOps = s.remoteOps := rfl
@[simp] theorem State.modBulk_opSeq (s : State) (b : Nat) (f : Bulk → Bulk) : (s.modBulk b f).opSeq = s.opSeq := rfl
@[simp] theorem State.modBulk_portUp (s : State) (b : Nat) (f : Bulk → Bulk) : (s.modBulk b f).portUp = s.portUp := rfl
@[simp] theorem State.modBulk_portCxl (s : State) (b : Nat) (f : Bulk → Bulk) : (s.modBulk b f).portCxl = s.portCxl := rfl
@[simp] theorem State.modBulk_reedDown (s : State) (b : Nat) (f : Bulk → Bulk) : (s.modBulk b f).reedDown = s.reedDown := rfl
@[simp] theorem State.modBulk_laneStopped (s : State) (b : Nat) (f : Bulk → Bulk) : (s.modBulk b f).laneStopped = s.laneStopped := rfl
@[simp] theorem State.modBulk_booting (s : State) (b : Nat) (f : Bulk → Bulk) : (s.modBulk b f).booting = s.booting := rfl
@[simp] theorem State.modBulk_quoteAt (s : State) (b : Nat) (f : Bulk → Bulk) : (s.modBulk b f).quoteAt = s.quoteAt := rfl
@[simp] theorem State.modBulk_powerThrottle (s : State) (b : Nat) (f : Bulk → Bulk) : (s.modBulk b f).powerThrottle = s.powerThrottle := rfl
@[simp] theorem State.modBulk_thermalThrottle (s : State) (b : Nat) (f : Bulk → Bulk) : (s.modBulk b f).thermalThrottle = s.thermalThrottle := rfl
@[simp] theorem State.modBulk_free (s : State) (b : Nat) (f : Bulk → Bulk) : (s.modBulk b f).free = s.free := rfl
@[simp] theorem State.modBulk_cur (s : State) (b : Nat) (f : Bulk → Bulk) : (s.modBulk b f).cur = s.cur := rfl
@[simp] theorem State.modBulk_agenda (s : State) (b : Nat) (f : Bulk → Bulk) : (s.modBulk b f).agenda = s.agenda := rfl

@[simp] theorem State.modPart_mem (s : State) (p : Nat) (f : Part → Part) : (s.modPart p f).mem = s.mem := rfl
@[simp] theorem State.modPart_ts (s : State) (p : Nat) (f : Part → Part) : (s.modPart p f).ts = s.ts := rfl
@[simp] theorem State.modPart_cores (s : State) (p : Nat) (f : Part → Part) : (s.modPart p f).cores = s.cores := rfl
@[simp] theorem State.modPart_units (s : State) (p : Nat) (f : Part → Part) : (s.modPart p f).units = s.units := rfl
@[simp] theorem State.modPart_bulks (s : State) (p : Nat) (f : Part → Part) : (s.modPart p f).bulks = s.bulks := rfl
@[simp] theorem State.modPart_pf (s : State) (p : Nat) (f : Part → Part) : (s.modPart p f).pf = s.pf := rfl
@[simp] theorem State.modPart_pfLate (s : State) (p : Nat) (f : Part → Part) : (s.modPart p f).pfLate = s.pfLate := rfl
@[simp] theorem State.modPart_proxy (s : State) (p : Nat) (f : Part → Part) : (s.modPart p f).proxy = s.proxy := rfl
@[simp] theorem State.modPart_prAlloc (s : State) (p : Nat) (f : Part → Part) : (s.modPart p f).prAlloc = s.prAlloc := rfl
@[simp] theorem State.modPart_bar4 (s : State) (p : Nat) (f : Part → Part) : (s.modPart p f).bar4 = s.bar4 := rfl
@[simp] theorem State.modPart_hostOps (s : State) (p : Nat) (f : Part → Part) : (s.modPart p f).hostOps = s.hostOps := rfl
@[simp] theorem State.modPart_remoteOps (s : State) (p : Nat) (f : Part → Part) : (s.modPart p f).remoteOps = s.remoteOps := rfl
@[simp] theorem State.modPart_opSeq (s : State) (p : Nat) (f : Part → Part) : (s.modPart p f).opSeq = s.opSeq := rfl
@[simp] theorem State.modPart_portUp (s : State) (p : Nat) (f : Part → Part) : (s.modPart p f).portUp = s.portUp := rfl
@[simp] theorem State.modPart_portCxl (s : State) (p : Nat) (f : Part → Part) : (s.modPart p f).portCxl = s.portCxl := rfl
@[simp] theorem State.modPart_reedDown (s : State) (p : Nat) (f : Part → Part) : (s.modPart p f).reedDown = s.reedDown := rfl
@[simp] theorem State.modPart_laneStopped (s : State) (p : Nat) (f : Part → Part) : (s.modPart p f).laneStopped = s.laneStopped := rfl
@[simp] theorem State.modPart_booting (s : State) (p : Nat) (f : Part → Part) : (s.modPart p f).booting = s.booting := rfl
@[simp] theorem State.modPart_quoteAt (s : State) (p : Nat) (f : Part → Part) : (s.modPart p f).quoteAt = s.quoteAt := rfl
@[simp] theorem State.modPart_powerThrottle (s : State) (p : Nat) (f : Part → Part) : (s.modPart p f).powerThrottle = s.powerThrottle := rfl
@[simp] theorem State.modPart_thermalThrottle (s : State) (p : Nat) (f : Part → Part) : (s.modPart p f).thermalThrottle = s.thermalThrottle := rfl
@[simp] theorem State.modPart_free (s : State) (p : Nat) (f : Part → Part) : (s.modPart p f).free = s.free := rfl
@[simp] theorem State.modPart_cur (s : State) (p : Nat) (f : Part → Part) : (s.modPart p f).cur = s.cur := rfl
@[simp] theorem State.modPart_agenda (s : State) (p : Nat) (f : Part → Part) : (s.modPart p f).agenda = s.agenda := rfl

@[simp] theorem State.pfSet_mem (s : State) (o : Nat) (x : Word) : (s.pfSet o x).mem = s.mem := rfl
@[simp] theorem State.pfSet_ts (s : State) (o : Nat) (x : Word) : (s.pfSet o x).ts = s.ts := rfl
@[simp] theorem State.pfSet_cores (s : State) (o : Nat) (x : Word) : (s.pfSet o x).cores = s.cores := rfl
@[simp] theorem State.pfSet_units (s : State) (o : Nat) (x : Word) : (s.pfSet o x).units = s.units := rfl
@[simp] theorem State.pfSet_bulks (s : State) (o : Nat) (x : Word) : (s.pfSet o x).bulks = s.bulks := rfl
@[simp] theorem State.pfSet_parts (s : State) (o : Nat) (x : Word) : (s.pfSet o x).parts = s.parts := rfl
@[simp] theorem State.pfSet_pfLate (s : State) (o : Nat) (x : Word) : (s.pfSet o x).pfLate = s.pfLate := rfl
@[simp] theorem State.pfSet_proxy (s : State) (o : Nat) (x : Word) : (s.pfSet o x).proxy = s.proxy := rfl
@[simp] theorem State.pfSet_prAlloc (s : State) (o : Nat) (x : Word) : (s.pfSet o x).prAlloc = s.prAlloc := rfl
@[simp] theorem State.pfSet_bar4 (s : State) (o : Nat) (x : Word) : (s.pfSet o x).bar4 = s.bar4 := rfl
@[simp] theorem State.pfSet_hostOps (s : State) (o : Nat) (x : Word) : (s.pfSet o x).hostOps = s.hostOps := rfl
@[simp] theorem State.pfSet_remoteOps (s : State) (o : Nat) (x : Word) : (s.pfSet o x).remoteOps = s.remoteOps := rfl
@[simp] theorem State.pfSet_opSeq (s : State) (o : Nat) (x : Word) : (s.pfSet o x).opSeq = s.opSeq := rfl
@[simp] theorem State.pfSet_portUp (s : State) (o : Nat) (x : Word) : (s.pfSet o x).portUp = s.portUp := rfl
@[simp] theorem State.pfSet_portCxl (s : State) (o : Nat) (x : Word) : (s.pfSet o x).portCxl = s.portCxl := rfl
@[simp] theorem State.pfSet_reedDown (s : State) (o : Nat) (x : Word) : (s.pfSet o x).reedDown = s.reedDown := rfl
@[simp] theorem State.pfSet_laneStopped (s : State) (o : Nat) (x : Word) : (s.pfSet o x).laneStopped = s.laneStopped := rfl
@[simp] theorem State.pfSet_booting (s : State) (o : Nat) (x : Word) : (s.pfSet o x).booting = s.booting := rfl
@[simp] theorem State.pfSet_quoteAt (s : State) (o : Nat) (x : Word) : (s.pfSet o x).quoteAt = s.quoteAt := rfl
@[simp] theorem State.pfSet_powerThrottle (s : State) (o : Nat) (x : Word) : (s.pfSet o x).powerThrottle = s.powerThrottle := rfl
@[simp] theorem State.pfSet_thermalThrottle (s : State) (o : Nat) (x : Word) : (s.pfSet o x).thermalThrottle = s.thermalThrottle := rfl
@[simp] theorem State.pfSet_free (s : State) (o : Nat) (x : Word) : (s.pfSet o x).free = s.free := rfl
@[simp] theorem State.pfSet_cur (s : State) (o : Nat) (x : Word) : (s.pfSet o x).cur = s.cur := rfl
@[simp] theorem State.pfSet_agenda (s : State) (o : Nat) (x : Word) : (s.pfSet o x).agenda = s.agenda := rfl

@[simp] theorem State.modMem_ts (s : State) (f : Mem → Mem) : (s.modMem f).ts = s.ts := rfl
@[simp] theorem State.modMem_cores (s : State) (f : Mem → Mem) : (s.modMem f).cores = s.cores := rfl
@[simp] theorem State.modMem_units (s : State) (f : Mem → Mem) : (s.modMem f).units = s.units := rfl
@[simp] theorem State.modMem_bulks (s : State) (f : Mem → Mem) : (s.modMem f).bulks = s.bulks := rfl
@[simp] theorem State.modMem_parts (s : State) (f : Mem → Mem) : (s.modMem f).parts = s.parts := rfl
@[simp] theorem State.modMem_pf (s : State) (f : Mem → Mem) : (s.modMem f).pf = s.pf := rfl
@[simp] theorem State.modMem_pfLate (s : State) (f : Mem → Mem) : (s.modMem f).pfLate = s.pfLate := rfl
@[simp] theorem State.modMem_proxy (s : State) (f : Mem → Mem) : (s.modMem f).proxy = s.proxy := rfl
@[simp] theorem State.modMem_prAlloc (s : State) (f : Mem → Mem) : (s.modMem f).prAlloc = s.prAlloc := rfl
@[simp] theorem State.modMem_bar4 (s : State) (f : Mem → Mem) : (s.modMem f).bar4 = s.bar4 := rfl
@[simp] theorem State.modMem_hostOps (s : State) (f : Mem → Mem) : (s.modMem f).hostOps = s.hostOps := rfl
@[simp] theorem State.modMem_remoteOps (s : State) (f : Mem → Mem) : (s.modMem f).remoteOps = s.remoteOps := rfl
@[simp] theorem State.modMem_opSeq (s : State) (f : Mem → Mem) : (s.modMem f).opSeq = s.opSeq := rfl
@[simp] theorem State.modMem_portUp (s : State) (f : Mem → Mem) : (s.modMem f).portUp = s.portUp := rfl
@[simp] theorem State.modMem_portCxl (s : State) (f : Mem → Mem) : (s.modMem f).portCxl = s.portCxl := rfl
@[simp] theorem State.modMem_reedDown (s : State) (f : Mem → Mem) : (s.modMem f).reedDown = s.reedDown := rfl
@[simp] theorem State.modMem_laneStopped (s : State) (f : Mem → Mem) : (s.modMem f).laneStopped = s.laneStopped := rfl
@[simp] theorem State.modMem_booting (s : State) (f : Mem → Mem) : (s.modMem f).booting = s.booting := rfl
@[simp] theorem State.modMem_quoteAt (s : State) (f : Mem → Mem) : (s.modMem f).quoteAt = s.quoteAt := rfl
@[simp] theorem State.modMem_powerThrottle (s : State) (f : Mem → Mem) : (s.modMem f).powerThrottle = s.powerThrottle := rfl
@[simp] theorem State.modMem_thermalThrottle (s : State) (f : Mem → Mem) : (s.modMem f).thermalThrottle = s.thermalThrottle := rfl
@[simp] theorem State.modMem_free (s : State) (f : Mem → Mem) : (s.modMem f).free = s.free := rfl
@[simp] theorem State.modMem_cur (s : State) (f : Mem → Mem) : (s.modMem f).cur = s.cur := rfl
@[simp] theorem State.modMem_agenda (s : State) (f : Mem → Mem) : (s.modMem f).agenda = s.agenda := rfl

@[simp] theorem State.proxySet_mem (s : State) (p l : Nat) (x : HostLine) : (s.proxySet p l x).mem = s.mem := rfl
@[simp] theorem State.proxySet_ts (s : State) (p l : Nat) (x : HostLine) : (s.proxySet p l x).ts = s.ts := rfl
@[simp] theorem State.proxySet_cores (s : State) (p l : Nat) (x : HostLine) : (s.proxySet p l x).cores = s.cores := rfl
@[simp] theorem State.proxySet_units (s : State) (p l : Nat) (x : HostLine) : (s.proxySet p l x).units = s.units := rfl
@[simp] theorem State.proxySet_bulks (s : State) (p l : Nat) (x : HostLine) : (s.proxySet p l x).bulks = s.bulks := rfl
@[simp] theorem State.proxySet_parts (s : State) (p l : Nat) (x : HostLine) : (s.proxySet p l x).parts = s.parts := rfl
@[simp] theorem State.proxySet_pf (s : State) (p l : Nat) (x : HostLine) : (s.proxySet p l x).pf = s.pf := rfl
@[simp] theorem State.proxySet_pfLate (s : State) (p l : Nat) (x : HostLine) : (s.proxySet p l x).pfLate = s.pfLate := rfl
@[simp] theorem State.proxySet_prAlloc (s : State) (p l : Nat) (x : HostLine) : (s.proxySet p l x).prAlloc = s.prAlloc := rfl
@[simp] theorem State.proxySet_bar4 (s : State) (p l : Nat) (x : HostLine) : (s.proxySet p l x).bar4 = s.bar4 := rfl
@[simp] theorem State.proxySet_hostOps (s : State) (p l : Nat) (x : HostLine) : (s.proxySet p l x).hostOps = s.hostOps := rfl
@[simp] theorem State.proxySet_remoteOps (s : State) (p l : Nat) (x : HostLine) : (s.proxySet p l x).remoteOps = s.remoteOps := rfl
@[simp] theorem State.proxySet_opSeq (s : State) (p l : Nat) (x : HostLine) : (s.proxySet p l x).opSeq = s.opSeq := rfl
@[simp] theorem State.proxySet_portUp (s : State) (p l : Nat) (x : HostLine) : (s.proxySet p l x).portUp = s.portUp := rfl
@[simp] theorem State.proxySet_portCxl (s : State) (p l : Nat) (x : HostLine) : (s.proxySet p l x).portCxl = s.portCxl := rfl
@[simp] theorem State.proxySet_reedDown (s : State) (p l : Nat) (x : HostLine) : (s.proxySet p l x).reedDown = s.reedDown := rfl
@[simp] theorem State.proxySet_laneStopped (s : State) (p l : Nat) (x : HostLine) : (s.proxySet p l x).laneStopped = s.laneStopped := rfl
@[simp] theorem State.proxySet_booting (s : State) (p l : Nat) (x : HostLine) : (s.proxySet p l x).booting = s.booting := rfl
@[simp] theorem State.proxySet_quoteAt (s : State) (p l : Nat) (x : HostLine) : (s.proxySet p l x).quoteAt = s.quoteAt := rfl
@[simp] theorem State.proxySet_powerThrottle (s : State) (p l : Nat) (x : HostLine) : (s.proxySet p l x).powerThrottle = s.powerThrottle := rfl
@[simp] theorem State.proxySet_thermalThrottle (s : State) (p l : Nat) (x : HostLine) : (s.proxySet p l x).thermalThrottle = s.thermalThrottle := rfl
@[simp] theorem State.proxySet_free (s : State) (p l : Nat) (x : HostLine) : (s.proxySet p l x).free = s.free := rfl
@[simp] theorem State.proxySet_cur (s : State) (p l : Nat) (x : HostLine) : (s.proxySet p l x).cur = s.cur := rfl
@[simp] theorem State.proxySet_agenda (s : State) (p l : Nat) (x : HostLine) : (s.proxySet p l x).agenda = s.agenda := rfl

@[simp] theorem State.modMem_mem (s : State) (f : Mem → Mem) : (s.modMem f).mem = f s.mem := rfl

theorem State.core_modCore_same (s : State) (k : Nat) (f : Core → Core) : (s.modCore k f).core k = f (s.core k) := by
  simp [State.core, State.modCore]
theorem State.core_modCore_other (s : State) (k j : Nat) (f : Core → Core) (h : j ≠ k) : (s.modCore k f).core j = s.core j := by
  simp [State.core, State.modCore, h]
@[simp] theorem State.core_modUnit (s : State) (u j : Nat) (f : Clus → Clus) : (s.modUnit u f).core j = s.core j := rfl
@[simp] theorem State.core_modBulk (s : State) (u j : Nat) (f : Bulk → Bulk) : (s.modBulk u f).core j = s.core j := rfl
@[simp] theorem State.core_modPart (s : State) (u j : Nat) (f : Part → Part) : (s.modPart u f).core j = s.core j := rfl
@[simp] theorem State.core_modMem (s : State) (j : Nat) (f : Mem → Mem) : (s.modMem f).core j = s.core j := rfl
@[simp] theorem State.unit_modCore (s : State) (k u : Nat) (f : Core → Core) : (s.modCore k f).unit u = s.unit u := rfl
@[simp] theorem State.unit_modCtx (s : State) (k c u : Nat) (f : Ctx → Ctx) : (s.modCtx k c f).unit u = s.unit u := rfl
@[simp] theorem State.unit_modCur (s : State) (u : Nat) (f : Ctx → Ctx) : (s.modCur f).unit u = s.unit u := rfl
theorem State.unit_modUnit_same (s : State) (k : Nat) (f : Clus → Clus) : (s.modUnit k f).unit k = f (s.unit k) := by
  simp [State.unit, State.modUnit]
theorem State.unit_modUnit_other (s : State) (k j : Nat) (f : Clus → Clus) (h : j ≠ k) : (s.modUnit k f).unit j = s.unit j := by
  simp [State.unit, State.modUnit, h]
theorem State.bulk_modBulk_same (s : State) (k : Nat) (f : Bulk → Bulk) : (s.modBulk k f).bulk k = f (s.bulk k) := by
  simp [State.bulk, State.modBulk]
theorem State.bulk_modBulk_other (s : State) (k j : Nat) (f : Bulk → Bulk) (h : j ≠ k) : (s.modBulk k f).bulk j = s.bulk j := by
  simp [State.bulk, State.modBulk, h]
theorem State.part_modPart_same (s : State) (k : Nat) (f : Part → Part) : (s.modPart k f).part k = f (s.part k) := by
  simp [State.part, State.modPart]
theorem State.part_modPart_other (s : State) (k j : Nat) (f : Part → Part) (h : j ≠ k) : (s.modPart k f).part j = s.part j := by
  simp [State.part, State.modPart, h]
@[simp] theorem State.part_modCtx (s : State) (k c p : Nat) (f : Ctx → Ctx) : (s.modCtx k c f).part p = s.part p := rfl
@[simp] theorem State.part_modUnit (s : State) (u p : Nat) (f : Clus → Clus) : (s.modUnit u f).part p = s.part p := rfl
theorem State.pfGet_pfSet_same (s : State) (o : Nat) (x : Word) : (s.pfSet o x).pfGet o = x := by
  simp [State.pfGet, State.pfSet]
theorem State.pfGet_pfSet_other (s : State) (o o' : Nat) (x : Word) (h : pfKey o' ≠ pfKey o) :
    (s.pfSet o x).pfGet o' = s.pfGet o' := by
  simp [State.pfGet, State.pfSet, h]

theorem State.ctx_modCtx_same (s : State) (k c : Nat) (f : Ctx → Ctx) : (s.modCtx k c f).ctx k c = f (s.ctx k c) := by
  simp [State.ctx, State.modCtx, State.core_modCore_same]
theorem State.ctx_modCtx_other (s : State) (k c j d : Nat) (f : Ctx → Ctx) (h : ¬(j = k ∧ d = c)) :
    (s.modCtx k c f).ctx j d = s.ctx j d := by
  unfold State.ctx State.modCtx
  by_cases hj : j = k
  · subst hj
    have hd : d ≠ c := fun e => h ⟨rfl, e⟩
    simp [State.core_modCore_same, hd]
  · simp [State.core_modCore_other _ _ _ _ hj]
@[simp] theorem State.ctx_modUnit (s : State) (u j d : Nat) (f : Clus → Clus) : (s.modUnit u f).ctx j d = s.ctx j d := rfl
@[simp] theorem State.ctx_modBulk (s : State) (u j d : Nat) (f : Bulk → Bulk) : (s.modBulk u f).ctx j d = s.ctx j d := rfl
@[simp] theorem State.ctx_modPart (s : State) (u j d : Nat) (f : Part → Part) : (s.modPart u f).ctx j d = s.ctx j d := rfl
@[simp] theorem State.ctx_modMem (s : State) (j d : Nat) (f : Mem → Mem) : (s.modMem f).ctx j d = s.ctx j d := rfl
@[simp] theorem State.cc_modCur (s : State) (f : Ctx → Ctx) : (s.modCur f).cc = f s.cc := s.ctx_modCtx_same _ _ f
@[simp] theorem State.cc_modUnit (s : State) (u : Nat) (f : Clus → Clus) : (s.modUnit u f).cc = s.cc := rfl
@[simp] theorem State.cc_modBulk (s : State) (u : Nat) (f : Bulk → Bulk) : (s.modBulk u f).cc = s.cc := rfl
@[simp] theorem State.cc_modPart (s : State) (u : Nat) (f : Part → Part) : (s.modPart u f).cc = s.cc := rfl
@[simp] theorem State.cc_modMem (s : State) (f : Mem → Mem) : (s.modMem f).cc = s.cc := rfl

/-- A core after one of its contexts has changed: the contexts alone. -/
theorem State.core_modCtx (s : State) (k c : Nat) (f : Ctx → Ctx) :
    (s.modCtx k c f).core k = { s.core k with ctxs := fput (s.core k).ctxs c (f (s.ctx k c)) } := by
  simp [State.modCtx, State.core_modCore_same, State.ctx]

end Sys2Proof.Machine
end

