-- ==== Sys2Proof/Laws/Memory.lean ====
section
/-! SUPPORT. Memory: what a read after a write gives, that every operation on memory keeps its canonical form, and all that the
one write of State can do. -/

namespace Sys2Proof.Machine

/-! Bytes. -/

@[simp] theorem Mem.setByte_dflt (m : Mem) (k : Nat) (b : Byte) (j : Nat) : (m.setByte k b).dflt j = m.dflt j := rfl
@[simp] theorem Mem.setByte_empties (m : Mem) (k : Nat) (b : Byte) : (m.setByte k b).empties = m.empties := rfl
@[simp] theorem Mem.setByte_waiters (m : Mem) (k : Nat) (b : Byte) : (m.setByte k b).waiters = m.waiters := rfl
@[simp] theorem Mem.setByte_poison (m : Mem) (k : Nat) (b : Byte) : (m.setByte k b).poison = m.poison := rfl
@[simp] theorem Mem.setByte_undef (m : Mem) (k : Nat) (b : Byte) : (m.setByte k b).undef = m.undef := rfl

/-- A read of the byte written gives it; every other byte reads as before. -/
theorem Mem.byte_setByte (m : Mem) (k : Nat) (b : Byte) (j : Nat) : (m.setByte k b).byte j = if j = k then b else m.byte j := by
  unfold Mem.byte
  rw [Mem.setByte_dflt, Mem.setByte]
  by_cases h : j = k
  · subst h; simp [fget_fset]
  · simp only [h, if_false, fset]
    split
    · exact fget_fdel_other _ _ _ _ h
    · exact fget_fput_other _ _ _ _ _ h

/-- Bytes written at k: the i-th is the i-th of the list, and every byte outside reads as before. -/
theorem Mem.byte_setBytes (m : Mem) (k : Nat) (bs : List Byte) (j : Nat) :
    (m.setBytes k bs).byte j = if h : k ≤ j ∧ j - k < bs.length then bs[j - k]'h.2 else m.byte j := by
  induction bs generalizing m k with
  | nil => simp [Mem.setBytes]
  | cons b bs ih =>
    rw [Mem.setBytes, ih, Mem.byte_setByte]
    by_cases h1 : j = k
    · subst h1; simp <;> omega
    · by_cases h2 : k + 1 ≤ j ∧ j - (k + 1) < bs.length
      · have h3 : k ≤ j ∧ j - k < (b :: bs).length := by simp; omega
        rw [dif_pos h2, dif_pos h3]
        have : j - k = j - (k + 1) + 1 := by omega
        simp [this]
      · have h3 : ¬(k ≤ j ∧ j - k < (b :: bs).length) := by simp; omega
        rw [dif_neg h2, dif_neg h3, if_neg h1]

theorem Mem.setBytes_fields (m : Mem) (k : Nat) (bs : List Byte) : (m.setBytes k bs).undef = m.undef ∧
    (m.setBytes k bs).empties = m.empties ∧ (m.setBytes k bs).waiters = m.waiters ∧ (m.setBytes k bs).poison = m.poison := by
  induction bs generalizing m k with
  | nil => exact ⟨rfl, rfl, rfl, rfl⟩
  | cons b bs ih => exact ih _ _

/-- Two memories that agree on every byte agree on every run of bytes. -/
theorem Mem.bytes_congr {m m' : Mem} (k n : Nat) (h : ∀ i, i < n → m.byte (k + i) = m'.byte (k + i)) : m.bytes k n = m'.bytes k n := by
  induction n generalizing k with
  | zero => rfl
  | succ n ih =>
    rw [Mem.bytes, Mem.bytes, ih (k + 1) fun i hi => by simpa [Nat.add_assoc, Nat.add_comm 1 i] using h (i + 1) (by omega)]
    simpa using h 0 (by omega)

/-- A run of bytes read back where it was written. -/
theorem Mem.bytes_setBytes (m : Mem) (k : Nat) (bs : List Byte) : (m.setBytes k bs).bytes k bs.length = bs := by
  induction bs generalizing m k with
  | nil => rfl
  | cons b bs ih =>
    rw [List.length_cons, Mem.bytes, Mem.setBytes, ih, Mem.byte_setBytes, dif_neg (by omega), Mem.byte_setByte, if_pos rfl]

/-! The canonical form. -/

/-- Canonical form, part by part. -/
theorem Mem.wf_iff (m : Mem) : m.wf = true ↔ FMap.sorted m.cells = true ∧ (∀ c ∈ m.cells, c.2 ≠ m.dflt c.1) ∧
    FMap.wf false m.empties = true ∧ FMap.wf false m.waiters = true ∧ FMap.wf false m.poison = true := by
  simp [Mem.wf, Bool.and_eq_true, and_assoc, List.all_eq_true]

theorem Mem.setByte_wf (m : Mem) (k : Nat) (b : Byte) (h : m.wf = true) : (m.setByte k b).wf = true := by
  obtain ⟨h1, h2, h3⟩ := m.wf_iff.1 h
  refine (Mem.wf_iff _).2 ⟨sorted_fset _ _ _ _ h1, fun c hc => ?_, h3⟩
  rcases mem_fset _ _ _ _ _ hc with ⟨rfl, hx⟩ | ⟨hm, -⟩
  · exact hx
  · exact h2 c hm
theorem Mem.setBytes_wf (m : Mem) (k : Nat) (bs : List Byte) (h : m.wf = true) : (m.setBytes k bs).wf = true := by
  induction bs generalizing m k with
  | nil => exact h
  | cons b bs ih => exact ih _ _ (m.setByte_wf k b h)
theorem Mem.setFull_wf (m : Mem) (k : Nat) (f : Bool) (h : m.wf = true) : (m.setFull k f).wf = true := by
  obtain ⟨h1, h2, h3, h4⟩ := m.wf_iff.1 h
  exact (Mem.wf_iff _).2 ⟨h1, h2, wf_fset _ _ _ _ h3, h4⟩
theorem Mem.setWaiter_wf (m : Mem) (k : Nat) (w : Bool) (h : m.wf = true) : (m.setWaiter k w).wf = true := by
  obtain ⟨h1, h2, h3, h4, h5⟩ := m.wf_iff.1 h
  exact (Mem.wf_iff _).2 ⟨h1, h2, h3, wf_fset _ _ _ _ h4, h5⟩
theorem Mem.setPoison_wf (m : Mem) (blk : Nat) (p : Bool) (h : m.wf = true) : (m.setPoison blk p).wf = true := by
  obtain ⟨h1, h2, h3, h4, h5⟩ := m.wf_iff.1 h
  exact (Mem.wf_iff _).2 ⟨h1, h2, h3, h4, wf_fset _ _ _ _ h5⟩

/-- What a fold of steps keeps. -/
theorem foldl_keeps {α β : Type} (P : β → Prop) (f : β → α → β) (hf : ∀ b a, P b → P (f b a)) (l : List α) (b : β) (h : P b) :
    P (l.foldl f b) := by
  induction l generalizing b with
  | nil => exact h
  | cons a l ih => exact ih _ (hf _ _ h)

theorem Mem.markWrite_wf (m : Mem) (k n : Nat) (p : Bool) (h : m.wf = true) : (m.markWrite k n p).wf = true := by
  refine foldl_keeps (fun m : Mem => m.wf = true) _ (fun m i h => ?_) _ _ h
  dsimp only
  split
  · exact m.setPoison_wf _ _ h
  · split
    · exact m.setPoison_wf _ _ h
    · exact h

/-- A write of memory's marks changes marks only. -/
theorem Mem.markWrite_fields (m : Mem) (k n : Nat) (p : Bool) : (m.markWrite k n p).cells = m.cells ∧
    (m.markWrite k n p).undef = m.undef ∧ (m.markWrite k n p).empties = m.empties ∧ (m.markWrite k n p).waiters = m.waiters := by
  refine foldl_keeps (fun x : Mem => x.cells = m.cells ∧ x.undef = m.undef ∧ x.empties = m.empties ∧ x.waiters = m.waiters) _
    (fun x i h => ?_) _ _ ⟨rfl, rfl, rfl, rfl⟩
  dsimp only
  split
  · exact h
  · split
    · exact h
    · exact h

theorem Mem.byte_congr {m m' : Mem} (h : m.cells = m'.cells) (h' : m.undef = m'.undef) (k : Nat) : m.byte k = m'.byte k := by
  unfold Mem.byte Mem.dflt; rw [h, h']

theorem Mem.store_wf (m : Mem) (k : Nat) (bs : List Byte) (p : Bool) (h : m.wf = true) : (m.store k bs p).wf = true := by
  unfold Mem.store; split
  · exact h
  · exact Mem.markWrite_wf _ _ _ _ (Mem.setBytes_wf _ _ _ h)
/-- Everything a store does to bytes and full/empty bits. -/
theorem Mem.store_spec (m : Mem) (k : Nat) (bs : List Byte) (p : Bool) :
    (m.store k bs p).bytes k bs.length = bs ∧ (∀ j, j < k ∨ k + bs.length ≤ j → (m.store k bs p).byte j = m.byte j) ∧
    (∀ j, (m.store k bs p).full j = m.full j) := by
  unfold Mem.store
  split
  · rename_i h
    obtain rfl : bs = [] := by simpa using h
    exact ⟨rfl, fun _ _ => rfl, fun _ => rfl⟩
  · obtain ⟨hc, hu, he, -⟩ := (m.setBytes k bs).markWrite_fields k bs.length p
    refine ⟨?_, fun j hj => ?_, fun j => ?_⟩
    · rw [Mem.bytes_congr k bs.length fun i _ => Mem.byte_congr hc hu _, Mem.bytes_setBytes]
    · rw [Mem.byte_congr hc hu, Mem.byte_setBytes, dif_neg (by omega)]
    · rw [Mem.full, Mem.full, he, (m.setBytes_fields k bs).2.1]

/-- What bytes outside a range read as where nothing is listed does not change when the range becomes undefined. -/
theorem Mem.scramble_dflt (m : Mem) (lo hi e k : Nat) (h : k < lo ∨ hi ≤ k) : (m.scramble lo hi e).dflt k = m.dflt k := by
  have hk : (decide (lo ≤ k) && decide (k < hi)) = false := by simp; omega
  have hf : (m.undef.filter fun r => !(decide (lo ≤ r.1) && decide (r.2.1 ≤ hi))).find? (fun r => decide (r.1 ≤ k) && decide (k < r.2.1)) =
      m.undef.find? fun r => decide (r.1 ≤ k) && decide (k < r.2.1) := by
    induction m.undef with
    | nil => rfl
    | cons r l ih =>
      by_cases h1 : (decide (lo ≤ r.1) && decide (r.2.1 ≤ hi)) = true
      · have h2 : (decide (r.1 ≤ k) && decide (k < r.2.1)) = false := by simp at h1 ⊢; omega
        rw [List.filter_cons_of_neg (by simp only [h1]; decide), ih, List.find?_cons, h2]
      · rw [List.filter_cons_of_pos (by simp only [Bool.not_eq_true] at h1; simp only [h1]; decide), List.find?_cons, List.find?_cons, ih]
  unfold Mem.dflt Mem.scramble
  simp only [List.find?_cons, hk, hf]
theorem Mem.scramble_wf (m : Mem) (lo hi e : Nat) (h : m.wf = true) : (m.scramble lo hi e).wf = true := by
  obtain ⟨h1, h2, h3⟩ := m.wf_iff.1 h
  refine (Mem.wf_iff _).2 ⟨sorted_filter _ _ h1, fun c hc => ?_, h3⟩
  obtain ⟨hm, hr⟩ := List.mem_filter.1 hc
  rw [Mem.scramble_dflt]
  · exact h2 c hm
  · simp at hr; omega
theorem Mem.forget_wf (m : Mem) (lo hi e : Nat) (h : m.wf = true) : (m.forget lo hi e).wf = true := by
  obtain ⟨h1, h2, h3, h4, h5⟩ := (Mem.wf_iff _).1 (m.scramble_wf lo hi e h)
  exact (Mem.wf_iff _).2 ⟨h1, h2, wf_filter _ _ _ h3, wf_filter _ _ _ h4, wf_filter _ _ _ h5⟩
/-- Bytes outside the range that becomes undefined read as before. -/
theorem Mem.scramble_byte (m : Mem) (lo hi e k : Nat) (h : k < lo ∨ hi ≤ k) : (m.scramble lo hi e).byte k = m.byte k := by
  unfold Mem.byte
  rw [Mem.scramble_dflt m lo hi e k h]
  show fget _ (m.cells.filter _) k = _
  induction m.cells with
  | nil => rfl
  | cons c l ih =>
    by_cases hc : (decide (lo ≤ c.1) && decide (c.1 < hi)) = true
    · have : c.1 ≠ k := by simp at hc; omega
      rw [List.filter_cons_of_neg (by simp only [hc]; decide), ih, fget, if_neg this]
    · rw [List.filter_cons_of_pos (by simp only [Bool.not_eq_true] at hc; simp only [hc]; decide), fget, fget, ih]

/-! The one write of State. -/

/-- What follows a write (wakes, gates, waiter bits, slots) leaves: every byte, full/empty bit and mark, the PF registers, TS,
the ports and the current context; the waiter bits stay canonical. -/
structure After (s t : State) : Prop where
  mem : t.mem = { s.mem with waiters := t.mem.waiters }
  wf : FMap.wf false s.mem.waiters = true → FMap.wf false t.mem.waiters = true
  pf : t.pf = s.pf
  cur : t.cur = s.cur
  ts : t.ts = s.ts
  ports : t.portUp = s.portUp ∧ t.portCxl = s.portCxl ∧ t.proxy = s.proxy
  ops : t.hostOps = s.hostOps ∧ t.remoteOps = s.remoteOps

theorem After.refl (s : State) : After s s := ⟨rfl, id, rfl, rfl, rfl, ⟨rfl, rfl, rfl⟩, rfl, rfl⟩
theorem After.trans {s t u : State} (h : After s t) (h' : After t u) : After s u where
  mem := by rw [h'.mem, h.mem]
  wf := h'.wf ∘ h.wf
  pf := by rw [h'.pf, h.pf]
  cur := by rw [h'.cur, h.cur]
  ts := by rw [h'.ts, h.ts]
  ports := ⟨h'.ports.1.trans h.ports.1, h'.ports.2.1.trans h.ports.2.1, h'.ports.2.2.trans h.ports.2.2⟩
  ops := ⟨h'.ops.1.trans h.ops.1, h'.ops.2.trans h.ops.2⟩
theorem After.foldl {α : Type} (f : State → α → State) (hf : ∀ s a, After s (f s a)) (l : List α) (s : State) : After s (l.foldl f s) :=
  foldl_keeps (fun t => After s t) f (fun t a h => h.trans (hf t a)) l s (After.refl s)

/-- Changes of these fields alone. -/
theorem after_of_eq {s t : State} (h : t = { s with cores := t.cores, units := t.units, bulks := t.bulks, parts := t.parts }) : After s t := by
  rw [h]; exact ⟨rfl, id, rfl, rfl, rfl, ⟨rfl, rfl, rfl⟩, rfl, rfl⟩

theorem modRec_after (s : State) (t : W32) (f : Rec → Rec) : After s (s.modRec t f) := by
  unfold State.modRec; split <;> exact after_of_eq rfl
theorem joinQueue_after (s : State) (t : W32) : After s (s.joinQueue t) := by
  unfold State.joinQueue
  split
  · exact After.refl s
  · split
    · exact After.refl s
    · exact (modRec_after _ _ _).trans (after_of_eq rfl)
theorem fillSlot_after (s : State) (r : Rec) : After s (s.fillSlot r) := by
  unfold State.fillSlot
  exact (after_of_eq rfl).trans (joinQueue_after _ _)
theorem trySwap_after (s : State) (core slot : Nat) : After s (s.trySwap core slot) := by
  unfold State.trySwap
  split
  · exact After.refl s
  · dsimp only
    split
    · exact fillSlot_after s _
    · split
      · exact ((after_of_eq (s := s) (t := s.leaveQueues _) rfl).trans (fillSlot_after _ _)).trans (after_of_eq rfl)
      · exact After.refl s
theorem makeReady_after (s : State) (t : W32) : After s (s.makeReady t) := by
  unfold State.makeReady
  dsimp only
  split
  · exact (modRec_after _ _ _).trans (joinQueue_after _ _)
  · exact (modRec_after _ _ _).trans (trySwap_after _ _ _)
theorem count_after (s : State) (core ev : Nat) (c : Option Nat) (n : Nat) : After s (s.count core ev c n) := by
  unfold State.count; split
  · exact After.refl s
  · exact after_of_eq rfl
theorem hit_after (s : State) (t : W32) (n : Nat) : After s (s.hit t n) := by
  unfold State.hit
  split
  · exact After.refl s
  · split
    · dsimp only
      split
      · exact ((count_after _ _ _ _ _).trans (modRec_after _ _ _)).trans (makeReady_after _ _)
      · exact (count_after _ _ _ _ _).trans (modRec_after _ _ _)
    · exact After.refl s
theorem coarseHit_after (s : State) (b : Nat) : After s (s.coarseHit b) :=
  After.foldl _ (fun _ _ => (modRec_after _ _ _).trans (hit_after _ _ _)) _ _
theorem dropWatcher_after (s : State) (b line : Nat) (w : Watcher) : After s (s.dropWatcher b line w) := after_of_eq rfl
theorem fireGateAt_after (s : State) (u id : Nat) : After s (s.fireGateAt u id) := after_of_eq rfl
theorem watcherAct_after (s : State) (b line k n : Nat) (w : Watcher) : After s (s.watcherAct b line k n w) := by
  unfold State.watcherAct
  split
  · exact hit_after _ _ _
  · split
    · exact After.refl s
    · split
      · exact (fireGateAt_after _ _ _).trans (dropWatcher_after _ _ _ _)
      · exact After.refl s
theorem lineWritten_after (s : State) (b line k n : Nat) : After s (s.lineWritten b line k n) := by
  unfold State.lineWritten
  dsimp only
  have h : After s (((s.orderWatchers ((s.bulk b).watchers line)).foldl (fun s w => s.watcherAct b line k n w) s)) :=
    After.foldl _ (fun _ _ => watcherAct_after _ _ _ _ _ _) _ _
  split
  · exact h.trans (coarseHit_after _ _)
  · exact h
theorem touchWord_after (s : State) (k : Nat) : After s (s.touchWord k) := by
  unfold State.touchWord
  split
  · exact ⟨rfl, fun h => wf_fset false s.mem.waiters (k / 8) false h, rfl, rfl, rfl, ⟨rfl, rfl, rfl⟩, rfl, rfl⟩
  · exact After.refl s
theorem tailWritten_after (s : State) (k n : Nat) : After s (s.tailWritten k n) := after_of_eq rfl
/-- Everything that follows a write of n bytes at k. -/
theorem written_after (s : State) (k n : Nat) : After s (s.written k n) := by
  unfold State.written
  split
  · exact After.refl s
  · dsimp only
    exact ((After.foldl _ (fun _ _ => touchWord_after _ _) _ _).trans (tailWritten_after _ _ _)).trans
      (After.foldl _ (fun _ _ => After.foldl _ (fun _ _ => lineWritten_after _ _ _ _ _) _ _) _ _)

/-- After keeps every byte and full/empty bit, and the canonical form. -/
theorem After.byte {s t : State} (h : After s t) (k : Nat) : t.mem.byte k = s.mem.byte k := by rw [h.mem]; rfl
theorem After.full {s t : State} (h : After s t) (k : Nat) : t.mem.full k = s.mem.full k := by rw [h.mem]; rfl
theorem After.memOk {s t : State} (h : After s t) (hs : s.mem.wf = true) : t.mem.wf = true := by
  obtain ⟨h1, h2, h3, h4, h5⟩ := (Mem.wf_iff _).1 hs
  have hw := h.wf h4
  rw [h.mem]
  exact (Mem.wf_iff _).2 ⟨h1, h2, h3, hw, h5⟩

/-- Everything that the one write of State does to memory. -/
theorem writeMem_spec (s : State) (k : Nat) (bs : List Byte) (p : Bool) :
    (s.writeMem k bs p).mem.bytes k bs.length = bs ∧
    (∀ a, a < k ∨ k + bs.length ≤ a → (s.writeMem k bs p).mem.byte a = s.mem.byte a) ∧
    (∀ a, (s.writeMem k bs p).mem.full a = s.mem.full a) ∧ (s.writeMem k bs p).pf = s.pf ∧ (s.writeMem k bs p).cur = s.cur ∧
    (s.writeMem k bs p).ts = s.ts := by
  have h : After (s.modMem fun m => m.store k bs p) (s.writeMem k bs p) := written_after _ _ _
  obtain ⟨h1, h2, h3⟩ := s.mem.store_spec k bs p
  refine ⟨?_, fun a ha => ?_, fun a => ?_, h.pf, h.cur, h.ts⟩
  · rw [Mem.bytes_congr k bs.length fun i _ => h.byte _]; exact h1
  · rw [h.byte]; exact h2 a ha
  · rw [h.full]; exact h3 a
/-- The one write of State keeps the canonical form. -/
theorem writeMem_memOk (s : State) (k : Nat) (bs : List Byte) (p : Bool) (h : s.mem.wf = true) : (s.writeMem k bs p).mem.wf = true :=
  (written_after _ _ _).memOk (s.mem.store_wf k bs p h)
theorem writeNum_memOk (s : State) (k n x : Nat) (h : s.mem.wf = true) : (s.writeNum k n x).mem.wf = true := writeMem_memOk s _ _ _ h
/-- A full/empty change and its wake keep it. -/
theorem touchWord_memOk (s : State) (k : Nat) (h : s.mem.wf = true) : (s.touchWord k).mem.wf = true := (touchWord_after s k).memOk h
theorem scramble_memOk (s : State) (lo hi : Nat) (h : s.mem.wf = true) : (s.scramble lo hi).mem.wf = true := s.mem.scramble_wf _ _ _ h
theorem forget_memOk (s : State) (lo hi : Nat) (h : s.mem.wf = true) : (s.forget lo hi).mem.wf = true := s.mem.forget_wf _ _ _ h
theorem reset_memOk : State.reset.mem.wf = true := by decide

end Sys2Proof.Machine
end

