-- ==== Sys2Proof/Laws/Caches.lean ====
section
/-! SUPPORT. Caches, directories and the waits of homes leave memory as it is; a write at a home, and the violation log, keep it
canonical. -/

namespace Sys2Proof.Machine

theorem modDir_mem (s : State) (b d : Nat) (f : Dir → Dir) : (s.modDir b d f).mem = s.mem := rfl
theorem l1Set_mem (s : State) (core u : Nat) (x : L1State) : (s.l1Set core u x).mem = s.mem := rfl
theorem l1Drop_mem (s : State) (u : Nat) (o : Option Nat) : (s.l1Drop u o).mem = s.mem := rfl
theorem l2Evict_mem (s : State) (b d : Nat) : (s.l2Evict b d).mem = s.mem := rfl
theorem l2Make_mem (s : State) (b d : Nat) : (s.l2Make b d).mem = s.mem := by
  unfold State.l2Make; split
  · rfl
  · dsimp only; split <;> rfl
theorem l2Fill_mem (s : State) (b k n : Nat) (q : Bool) : (s.l2Fill b k n q).mem = s.mem := by
  have h := l2Make_mem s b (dirKey k)
  unfold State.l2Fill; dsimp only; split <;> exact h
theorem l1Leave_mem (s : State) (core u : Nat) : (s.l1Leave core u).mem = s.mem := by
  unfold State.l1Leave State.modDir State.modBulk
  dsimp only
  split
  · exact l2Fill_mem _ _ _ _ _
  · rfl
theorem l1Make_mem (s : State) (core u : Nat) : (s.l1Make core u).mem = s.mem := by
  unfold State.l1Make; split
  · rfl
  · exact foldl_keeps (fun t : State => t.mem = s.mem) _ (fun t u h => (l1Leave_mem t core u).trans h) _ _ rfl
theorem unsave_mem (s : State) (b u : Nat) : (s.unsave b u).mem = s.mem := by unfold State.unsave; split <;> rfl
theorem cohOwn_mem (s : State) (core u : Nat) : (s.cohOwn core u).mem = s.mem := by
  unfold State.cohOwn; dsimp only
  split <;> simp only [modDir_mem, l1Set_mem, l1Drop_mem, l2Fill_mem, l1Make_mem, unsave_mem]
theorem cohRecall_mem (s : State) (u : Nat) : (s.cohRecall u).mem = s.mem := by
  unfold State.cohRecall; dsimp only
  simp only [modDir_mem, l1Drop_mem, unsave_mem]
  split
  · exact l2Fill_mem _ _ _ _ _
  · rfl
theorem cohReadIn_mem (s : State) (f : Nat → Bool) (b core u : Nat) (q : Bool) : (s.cohReadIn f b core u q).mem = s.mem := by
  unfold State.cohReadIn; split
  · rfl
  · dsimp only; split <;> simp only [modDir_mem, l1Set_mem, l2Fill_mem, l1Make_mem]
theorem cohRead_mem (s : State) (core u : Nat) : (s.cohRead core u).mem = s.mem := cohReadIn_mem _ _ _ _ _ _
theorem hostRecall_mem (s : State) (p k : Nat) (o : Option Nat) : (s.hostRecall p k o).mem = s.mem := by
  unfold State.hostRecall; dsimp only
  rw [modDir_mem, unsave_mem]
theorem hostOwn_mem (s : State) (p core k : Nat) : (s.hostOwn p core k).mem = s.mem := by
  unfold State.hostOwn; dsimp only
  split <;> simp only [modDir_mem, l1Set_mem, l2Fill_mem, l1Make_mem, hostRecall_mem]
theorem hostShare_mem (s : State) (p core k : Nat) : (s.hostShare p core k).mem = s.mem := by
  unfold State.hostShare; split
  · dsimp only
    rw [cohReadIn_mem]
    split <;> rfl
  · rfl
theorem setTag_mem (s : State) (b d : Nat) (x : BitVec 2) : (s.setTag b d x).mem = s.mem := by
  unfold State.setTag; split <;> rfl
theorem tagBlock_mem (s : State) (k p vf n : Nat) : (s.tagBlock k p vf n).mem = s.mem :=
  foldl_keeps (fun t : State => t.mem = s.mem) _ (fun t u h => by rw [setTag_mem, l2Fill_mem]; exact h) _ _ rfl
theorem recallAll_mem (s : State) (k n : Nat) : (s.recallAll k n).mem = s.mem :=
  foldl_keeps (fun t : State => t.mem = s.mem) _ (fun t u h => (cohRecall_mem t u).trans h) _ _ rfl
theorem ownAll_mem (s : State) (c : Nat) (l : List Nat) : (l.foldl (fun (s : State) u => s.cohOwn c u) s).mem = s.mem :=
  foldl_keeps (fun t : State => t.mem = s.mem) _ (fun t u h => (cohOwn_mem t c u).trans h) _ _ rfl
theorem biSend_after (s : State) (k : Nat) (ls : List Nat) (own : Bool) : After s (s.biSend k ls own) := after_of_eq rfl
theorem biTake_after (s : State) (k n : Nat) : After s (s.biTake k n) := by
  unfold State.biTake; dsimp only
  split
  · exact After.refl s
  · exact (biSend_after _ _ _ _).trans (after_of_eq rfl)
theorem biTake_mem (s : State) (k n : Nat) : (s.biTake k n).mem = s.mem := by
  unfold State.biTake; dsimp only; split <;> rfl
theorem biTake_memOk (s : State) (k n : Nat) (h : s.mem.wf = true) : (s.biTake k n).mem.wf = true := (biTake_after s k n).memOk h
theorem homeJoin_after (s : State) (b lo hi : Nat) (w : Option HomeWho) : After s (s.homeJoin b lo hi w) := by
  unfold State.homeJoin; split
  · exact After.refl s
  · exact after_of_eq rfl
theorem homePass_after (s : State) (b : Nat) (w : Option HomeWho) : After s (s.homePass b w) := by
  unfold State.homePass; split
  · exact After.refl s
  · exact after_of_eq rfl
theorem unitReady_after (s : State) (k n : Nat) : After s (s.unitReady k n).2 := by
  unfold State.unitReady; split
  · exact After.refl s
  · dsimp only; split
    · exact After.refl s
    · exact biSend_after _ _ _ _
/-- The gate of a home, passed or not, changes what waits there and nothing else. -/
theorem homeGate_after (s : State) (g : Agent) (k n : Nat) (w : Bool) (p : Place) (ls : List Nat) : After s (s.homeGate g k n w p ls).2 := by
  unfold State.homeGate; dsimp only
  split
  · exact homeJoin_after _ _ _ _ _
  · split
    · exact (biSend_after _ _ _ _).trans (homeJoin_after _ _ _ _ _)
    · split
      · exact homeJoin_after _ _ _ _ _
      · exact homePass_after _ _ _
/-- An access that passes the gate has its place, and keeps or leaves its turn. -/
theorem homeGate_ok {s t : State} {g : Agent} {k n : Nat} {w : Bool} {p pl : Place} {ls : List Nat}
    (h : s.homeGate g k n w p ls = (.ok pl, t)) : t = s.homePass (keyBulk k) (s.homeWho g.holder) ∧ pl = p := by
  unfold State.homeGate at h; dsimp only at h
  split at h
  · simp at h
  · split at h
    · simp at h
    · split at h
      · simp at h
      · simp only [Prod.mk.injEq, Ares.ok.injEq] at h; exact ⟨h.2.symm, h.1.symm⟩

/-- A write at the home by a unit of the device keeps memory canonical. -/
theorem unitStore_memOk (s : State) (k p vf : Nat) (bs : List Byte) (h : s.mem.wf = true) : (s.unitStore k p vf bs).mem.wf = true := by
  refine writeMem_memOk _ _ _ _ ?_
  rw [tagBlock_mem]
  exact biTake_memOk _ _ _ (by rw [recallAll_mem]; exact h)
/-- The violation log, whose notify word is such a write, keeps it. -/
theorem vlogAppend_memOk (s : State) (b addr cause src unit : Nat) (h : s.mem.wf = true) : (s.vlogAppend b addr cause src unit).mem.wf = true := by
  unfold State.vlogAppend
  split
  · exact h
  · dsimp only
    split
    · exact h
    · exact unitStore_memOk _ _ _ _ _ h

end Sys2Proof.Machine
end

