-- ==== Sys2Proof/Laws/Ops.lean ====
section
/-! SUPPORT. What the named operations on the current context can do, each said once: writing g and v registers, retiring,
recording conditions, waiting. -/

namespace Sys2Proof.Machine

theorem OnlyCur.refl (s : State) : OnlyCur s s :=
  ⟨rfl, fun _ => rfl, fun _ => rfl, fun _ _ => rfl, rfl, fun _ _ => rfl⟩

/-- A change of the current context changes nothing else. -/
theorem onlyCur_modCur (s : State) (f : Ctx → Ctx) : OnlyCur s (s.modCur f) where
  rest := rfl
  units _ := rfl
  noPost _ := rfl
  cores k h := State.core_modCore_other _ _ _ _ h
  own := by simp [State.modCur, State.core_modCtx]
  ctxs c h := State.ctx_modCtx_other _ _ _ _ _ _ fun e => h e.2

/-- Two such changes in a row; the first leaves the ONCE count of the pair in progress, or none is. -/
theorem OnlyCur.trans {s t u : State} (h : OnlyCur s t) (h' : OnlyCur t u)
    (hq : s.cc.onceQ = none → t.cc.onceQ = none) : OnlyCur s u where
  rest := by rw [h'.rest, h.rest]
  units k := by rw [h'.units k, h.units k]
  noPost e := by rw [h'.noPost (hq e), h.noPost e]
  cores k hk := by
    have hc : t.cur = s.cur := by rw [h.rest]
    rw [h'.cores k (by rw [hc]; exact hk), h.cores k hk]
  own := by
    have hc : t.cur = s.cur := by rw [h.rest]
    have := h'.own; rw [hc] at this; rw [this, h.own]
  ctxs c hk := by
    have hc : t.cur = s.cur := by rw [h.rest]
    have := h'.ctxs c (by rw [hc]; exact hk); rw [hc] at this; rw [this, h.ctxs c hk]

/-- Posts added to a cluster (R116). -/
theorem onlyCur_posts (s : State) (u : Nat) (f : List (Nat × Nat × Post) → List (Nat × Nat × Post)) (hq : s.cc.onceQ ≠ none) :
    OnlyCur s (s.modUnit u fun x => { x with posts := f x.posts }) where
  rest := rfl
  units k := by
    by_cases h : k = u
    · subst h; simp [State.unit_modUnit_same]
    · simp [State.unit_modUnit_other _ _ _ _ h]
  noPost e := absurd e hq
  cores _ _ := rfl
  own := rfl
  ctxs _ _ := rfl

@[simp] theorem State.setG_cc (s : State) (d : GReg) (x : Word) :
    (s.setG d x).cc = s.cc.modRegs fun r => r.setG d.toNat x := by
  unfold State.setG
  cases h : s.cc.onceQ with
  | none => simp
  | some q =>
    simp only [State.post]
    split <;> simp

@[simp] theorem State.setG_cur (s : State) (d : GReg) (x : Word) : (s.setG d x).cur = s.cur := by
  unfold State.setG
  cases h : s.cc.onceQ with
  | none => rfl
  | some q => simp only [State.post]; split <;> rfl

/-- A g register written by the current instruction: nothing outside the context, but for its posts. -/
theorem onlyCur_setG (s : State) (d : GReg) (x : Word) : OnlyCur s (s.setG d x) := by
  unfold State.setG
  cases h : s.cc.onceQ with
  | none => exact onlyCur_modCur s _
  | some q =>
    simp only [State.post]
    split
    · exact onlyCur_modCur s _
    · refine (onlyCur_modCur s _).trans (onlyCur_posts _ _ (fun l => l ++ _) ?_) ?_
      · simp [Ctx.modRegs, h]
      · intro e; simp [e] at h

@[simp] theorem State.goto_cc (s : State) (pc : Word) : (s.goto pc).cc = s.cc.retire pc := by simp [State.goto]
@[simp] theorem State.pc_setG (s : State) (d : GReg) (x : Word) : (s.setG d x).pc = s.pc := by simp [State.pc, Ctx.modRegs]
@[simp] theorem State.pc_modRegs (s : State) (f : Regs → Regs) : (s.modCur fun c => c.modRegs f).pc = s.pc := by
  simp [State.pc, Ctx.modRegs]

/-- A jump after a change of the context. -/
theorem onlyCur_goto {s t : State} (h : OnlyCur s t) (hq : s.cc.onceQ = none → t.cc.onceQ = none) (pc : Word) :
    OnlyCur s (t.goto pc) := h.trans (onlyCur_modCur t _) hq

/-- Writing g(d) and going to pc: the context's registers and PC, and nothing else. -/
theorem setG_goto_spec (s : State) (d : GReg) (x pc : Word) :
    OnlyCur s ((s.setG d x).goto pc) ∧
      ((s.setG d x).goto pc).cc = { s.cc.retire pc with regs := s.cc.regs.setG d.toNat x } :=
  ⟨onlyCur_goto (onlyCur_setG s d x) (by simp [Ctx.modRegs]) pc, by simp [Ctx.retire, Ctx.modRegs]⟩

/-- Everything that writing g(d) and retiring does. -/
theorem ret_spec (s : State) (d : GReg) (x : Word) :
    OnlyCur s (s.ret d x) ∧ (s.ret d x).cc = s.after 4 fun r => r.setG d.toNat x := by
  have h := setG_goto_spec s d x ((s.setG d x).pc + BitVec.ofNat 64 4)
  rw [State.pc_setG] at h
  simpa [State.ret, State.done, State.adv, State.after] using h

/-- Everything that retiring alone does. -/
theorem adv_spec (s : State) (n : Nat) : OnlyCur s (s.adv n) ∧ (s.adv n).cc = s.after n fun r => r :=
  ⟨onlyCur_modCur s _, by simp [State.adv, State.after, Ctx.retire]⟩

/-- Everything that changing registers and retiring does. -/
theorem modRegs_adv_spec (s : State) (f : Regs → Regs) (n : Nat) :
    OnlyCur s ((s.modCur fun c => c.modRegs f).adv n) ∧ ((s.modCur fun c => c.modRegs f).adv n).cc = s.after n f := by
  refine ⟨onlyCur_goto (onlyCur_modCur s _) (by simp [Ctx.modRegs]) _, ?_⟩
  simp only [State.adv, State.pc_modRegs]
  simp [State.after, Ctx.retire, Ctx.modRegs]

/-- An instruction whose meaning is a write of g(d) completes, and does nothing else. -/
theorem writesG_of_ret {i : Instr} {s : State} {d : GReg} {x : Word} (h : exec i s = .next (s.ret d x)) : WritesG i s 4 d x :=
  ⟨_, h, (ret_spec s d x).1, (ret_spec s d x).2⟩

/-- The same for one that keeps its context out of the rotation afterwards (R99). -/
theorem cool_spec {s t : State} {x : Ctx} (h : OnlyCur s t) (hx : t.cc = x) (hq : s.cc.onceQ = none → t.cc.onceQ = none)
    (n : Nat) : OnlyCur s (t.cool n) ∧ (t.cool n).cc = { x with readyAt := (s.core s.cur.1).cycle + n } := by
  refine ⟨h.trans (onlyCur_modCur t _) hq, ?_⟩
  have hc : (t.core t.cur.1).cycle = (s.core s.cur.1).cycle := by
    have : t.cur = s.cur := by rw [h.rest]
    rw [this, h.own]
  simp [State.cool, hx, hc]

/-- The same for a scalar one, on a barrel core and on a deep one (R99). -/
theorem long_spec {s t : State} {x : Ctx} (h : OnlyCur s t) (hx : t.cc = x) (hq : s.cc.onceQ = none → t.cc.onceQ = none)
    (d : GReg) (n : Nat) : OnlyCur s (t.long d n) ∧ (t.long d n).cc = s.longFor d n x := by
  have hcur : t.cur = s.cur := by rw [h.rest]
  have hc : (t.core t.cur.1).cycle = (s.core s.cur.1).cycle := by rw [hcur, h.own]
  have hd : isDeep t.cur.1 = isDeep s.cur.1 := by rw [hcur]
  unfold State.long State.longFor
  rw [hd]
  split
  · exact ⟨h.trans (onlyCur_modCur t _) hq, by simp [hx, hc]⟩
  · exact cool_spec h hx hq n

/-- Everything that recording conditions, writing g(d) and retiring does. -/
theorem raise_ret_spec (s : State) (d : GReg) (c : Cond) (x : Word) :
    OnlyCur s ((s.raise c).ret d x) ∧ ((s.raise c).ret d x).cc = s.after 4 fun r => (r.noted c).setG d.toNat x := by
  have h := ret_spec (s.raise c) d x
  refine ⟨(onlyCur_modCur s _ : OnlyCur s (s.raise c)).trans h.1 (by simp [Ctx.modRegs]), ?_⟩
  rw [h.2]
  simp [State.after, State.raise, Ctx.modRegs, Ctx.retire, Regs.noted, State.pc]

end Sys2Proof.Machine
end

