-- ==== Sys2Proof/Laws/Access.lean ====
section
/-! SUPPORT. What the shared operations on accesses, records, faults and stores can do: an access that reaches its place leaves
the state but for its tag's use; each of them keeps memory canonical. -/

namespace Sys2Proof.Machine

theorem useTag_after (s : State) (p pasid : Nat) : After s (s.useTag p pasid) := after_of_eq rfl
theorem request_after (s : State) (g : Agent) (pasid : Nat) (va : Word) (w : Bool) : After s (s.request g pasid va w).2 := by
  unfold State.request
  dsimp only
  split
  · split
    · exact After.refl s
    · exact after_of_eq rfl
  · exact after_of_eq rfl
/-- A request gives no place. -/
theorem request_ne {s t : State} {g : Agent} {pasid : Nat} {va : Word} {w : Bool} {pl : Place} : s.request g pasid va w ≠ (.ok pl, t) := by
  unfold State.request
  dsimp only
  repeat' split
  all_goals simp
/-- A translation that is answered by the cache notes its tag's use, and does nothing else. -/
theorem translate_ok {s t : State} {g : Agent} {w : Bool} {va : Word} {pl : Place} (h : s.translate g w va = (.ok pl, t)) :
    t = s.useTag g.part (s.pasid g.part g.vf) := by
  unfold State.translate at h
  dsimp only at h
  split at h
  · simp at h
  · split at h
    · exact absurd h request_ne
    · split at h
      · exact absurd h request_ne
      · split at h
        · simp only [Prod.mk.injEq] at h; exact h.2.symm
        · simp at h
theorem translate_after (s : State) (g : Agent) (w : Bool) (va : Word) : After s (s.translate g w va).2 := by
  unfold State.translate
  dsimp only
  split
  · split
    · exact After.refl s
    · exact after_of_eq rfl
  · split
    · exact request_after _ _ _ _ _
    · split
      · exact request_after _ _ _ _ _
      · split
        · exact useTag_after _ _ _
        · exact useTag_after _ _ _
theorem locate_after (s : State) (g : Agent) (a : Acc) (va : Word) : After s (s.locate g a va).2 := by
  have h := translate_after s g a.write va
  unfold State.locate
  split
  · exact After.refl s
  · split
    · exact After.refl s
    · split
      · split
        · exact After.refl s
        · split <;> exact After.refl s
      · split
        · exact After.refl s
        · cases hx : s.translate g a.write va with
          | mk r t => rw [hx] at h; cases r <;> exact h
/-- Checks that lead to a place leave the state, but for the use of the tag that translated it. -/
theorem locate_ok {s t : State} {g : Agent} {a : Acc} {va : Word} {pl : Place} (h : s.locate g a va = (.ok pl, t)) :
    t = s ∨ t = s.useTag g.part (s.pasid g.part g.vf) := by
  unfold State.locate at h
  split at h
  · simp at h
  · split at h
    · simp at h
    · split at h
      · split at h
        · simp at h
        · split at h
          · simp at h
          · simp only [Prod.mk.injEq] at h; exact .inl h.2.symm
      · split at h
        · simp at h
        · cases hx : s.translate g a.write va with
          | mk r u =>
            rw [hx] at h
            cases r with
            | ok p => simp only [Prod.mk.injEq] at h; obtain ⟨-, rfl⟩ := h; exact .inr (translate_ok hx)
            | fault c d => simp at h
            | ats => simp at h
            | page => simp at h
theorem windowLog_memOk (s : State) (e d : Nat) (g : Agent) (h : s.mem.wf = true) : (s.windowLog e d g).mem.wf = true := by
  unfold State.windowLog; split
  · exact vlogAppend_memOk _ _ _ _ _ _ h
  · exact h
theorem checkPlace_memOk (s : State) (g : Agent) (a : Acc) (p : Place) (h : s.mem.wf = true) : (s.checkPlace g a p).2.mem.wf = true := by
  have hw := fun e d => windowLog_memOk s e d g h
  have hg := fun k n w pl r => (homeGate_after s g k n w pl r).memOk h
  unfold State.checkPlace
  dsimp only
  repeat' split
  all_goals first
    | with_reducible exact h
    | with_reducible exact hw _ _
    | with_reducible exact hg _ _ _ _ _
/-- Checks on a place that pass leave the state, but for the turn at its home. -/
theorem checkPlace_ok {s t : State} {g : Agent} {a : Acc} {p pl : Place} (h : s.checkPlace g a p = (.ok pl, t)) :
    pl = p ∧ (t = s ∨ ∃ k, t = s.homePass (keyBulk k) (s.homeWho g.holder)) := by
  unfold State.checkPlace at h
  dsimp only at h
  repeat' split at h
  all_goals first
    | (simp at h; done)
    | (simp only [Prod.mk.injEq, Ares.ok.injEq] at h; exact ⟨h.1.symm, .inl h.2.symm⟩)
    | (obtain ⟨h1, h2⟩ := homeGate_ok h; exact ⟨h2, .inr ⟨_, h1⟩⟩)
/-- An access that passes leaves the state but for the use of the tag that translated its address, and the turn at its home. -/
theorem access_ok {s t : State} {g : Agent} {a : Acc} {va : Word} {pl : Place} (h : s.access g a va = (.ok pl, t)) :
    ∃ u, (u = s ∨ u = s.useTag g.part (s.pasid g.part g.vf)) ∧ (t = u ∨ ∃ k, t = u.homePass (keyBulk k) (u.homeWho g.holder)) := by
  unfold State.access at h
  cases hx : s.locate g a va with
  | mk r u =>
    rw [hx] at h
    cases r with
    | ok p => exact ⟨u, locate_ok hx, (checkPlace_ok h).2⟩
    | fault c d => simp at h
    | ats => simp at h
    | page => simp at h
    | bi => simp at h
theorem access_ok_after {s t : State} {g : Agent} {a : Acc} {va : Word} {pl : Place} (h : s.access g a va = (.ok pl, t)) :
    After s t := by
  obtain ⟨u, h1, h2⟩ := access_ok h
  refine After.trans (t := u) ?_ ?_
  · rcases h1 with rfl | rfl
    · exact After.refl _
    · exact useTag_after _ _ _
  · rcases h2 with rfl | ⟨k, rfl⟩
    · exact After.refl _
    · exact homePass_after _ _ _
/-- Every access keeps memory canonical: of the refused ones, a window's writes the exporter's violation log. -/
theorem access_memOk (s : State) (g : Agent) (a : Acc) (va : Word) (h : s.mem.wf = true) : (s.access g a va).2.mem.wf = true := by
  have h1 := (locate_after s g a va).memOk h
  unfold State.access
  cases hx : s.locate g a va with
  | mk r u =>
    rw [hx] at h1
    cases r with
    | ok p => exact checkPlace_memOk _ _ _ _ h1
    | fault c d => exact h1
    | ats => exact h1
    | page => exact h1
    | bi => exact h1

/-! Stores keep memory canonical. -/

theorem addOp_mem (s : State) (pl : Place) (o : HostOp) : (s.addOp pl o).mem = s.mem := by unfold State.addOp; split <;> rfl
theorem lineRead_mem (s : State) (p vf : Nat) (h : Holder) (pl : Place) : (s.lineRead p vf h pl).2.mem = s.mem := by
  unfold State.lineRead; split
  · rfl
  · split
    · exact addOp_mem _ _ _
    · rfl
theorem linesRead_mem (s : State) (p vf : Nat) (h : Holder) (pl : Place) (n : Nat) : (s.linesRead p vf h pl n).2.mem = s.mem := by
  induction n generalizing s pl with
  | zero => rfl
  | succ n ih => exact (ih _ _).trans (lineRead_mem _ _ _ _ _)
/-- A read by a holder changes no memory, whatever it gives. -/
theorem linkRead_mem (s : State) (p vf : Nat) (h : Holder) (pl : Place) (n : Nat) : (s.linkRead p vf h pl n).2.mem = s.mem := by
  unfold State.linkRead; split
  · rfl
  · exact linesRead_mem _ _ _ _ _ _
theorem linkWrite_memOk (s : State) (k : Nat) (bs : List Byte) (q : Bool) (h : s.mem.wf = true) : (s.linkWrite k bs q).mem.wf = true :=
  writeMem_memOk _ _ _ _ h
theorem hostPut_memOk (s : State) (o : HostOp) (h : s.mem.wf = true) : (s.hostPut o).mem.wf = true := by
  unfold State.hostPut; dsimp only
  split
  · generalize hu : (if (o.holder.isNone && s.hostOwned o.part o.key) = true then s.hostOwn o.part o.core o.key
        else s.hostRecall o.part o.key none) = u
    have h1 : u.mem.wf = true := by
      rw [← hu]; split
      · rw [hostOwn_mem]; exact h
      · rw [hostRecall_mem]; exact h
    have h2 : (u.setTag (u.hostHome o.part o.key) (dirKey o.key) (u.rixOf o.part o.vf)).mem.wf = true := by rw [setTag_mem]; exact h1
    split <;> exact linkWrite_memOk _ _ _ _ h2
  · exact linkWrite_memOk _ _ _ _ h
theorem hostStore_memOk (s : State) (p q key : Nat) (bs : List Byte) (x : Bool) (k c : Nat) (o : Option Holder) (h : s.mem.wf = true) :
    (s.hostStore p q key bs x k c o).mem.wf = true := by
  unfold State.hostStore; dsimp only; split
  · exact hostPut_memOk _ _ h
  · rw [addOp_mem]; exact h
theorem remoteStore_memOk (s : State) (p q w d : Nat) (bs : List Byte) (x : Bool) (k c : Nat) (o : Option Holder) (h : s.mem.wf = true) :
    (s.remoteStore p q w d bs x k c o).mem.wf = true := by
  unfold State.remoteStore; dsimp only; split
  · exact linkWrite_memOk _ _ _ _ (by rw [addOp_mem]; exact h)
  · rw [addOp_mem]; exact h
/-- A store at a place that has passed its checks keeps memory canonical, whatever route it takes. -/
theorem storeAt_memOk (s : State) (p vf : Nat) (core : Option Nat) (kc : Nat × Nat) (pl : Place) (bs : List Byte) (q : Bool)
    (h : s.mem.wf = true) : (s.storeAt p vf core kc pl bs q).mem.wf = true := by
  unfold State.storeAt
  dsimp only
  split
  · exact h
  · exact remoteStore_memOk _ _ _ _ _ _ _ _ _ _ h
  · exact writeMem_memOk _ _ _ _ (by rw [tagBlock_mem, recallAll_mem]; exact h)
  · split
    · exact hostStore_memOk _ _ _ _ _ _ _ _ _ h
    · split
      · refine writeMem_memOk _ _ _ _ ?_
        rw [tagBlock_mem]
        split
        · rw [ownAll_mem]; exact h
        · exact biTake_memOk _ _ _ (by rw [recallAll_mem]; exact h)
      · exact writeMem_memOk _ _ _ _ h
theorem agentStore_memOk (s : State) (p vf : Nat) (pl : Place) (bs : List Byte) (q : Bool) (h : s.mem.wf = true) :
    (s.agentStore p vf pl bs q).mem.wf = true := by
  unfold State.agentStore
  dsimp only
  split
  · exact foldl_keeps (fun t : State => t.mem.wf = true) _ (fun t x ht => storeAt_memOk _ _ _ _ _ _ _ _ ht) _ _ h
  · exact storeAt_memOk _ _ _ _ _ _ _ _ h

/-! Records and faults. -/

theorem recordAt_memOk (s : State) (p : Nat) (pl : Place) (r : FaultRec) (h : s.mem.wf = true) : (s.recordAt p pl r).mem.wf = true :=
  agentStore_memOk _ _ _ _ _ _ h
theorem recordDrop_memOk (s : State) (b : Nat) (line : Word) (t : W32) (n : Nat) (h : s.mem.wf = true) :
    (s.recordDrop b line t n).mem.wf = true := vlogAppend_memOk _ _ _ _ _ _ h
theorem summary_memOk (s : State) (p vf : Nat) (t : W32) (h : s.mem.wf = true) : (s.summary p vf t).mem.wf = true := by
  refine (written_after _ _ _).memOk (Mem.setByte_wf _ _ _ (Mem.setBytes_wf _ _ _ ?_))
  rw [tagBlock_mem]
  exact biTake_memOk _ _ _ (by rw [recallAll_mem]; exact h)
theorem summaryReady_after (s : State) (p : Nat) (t : W32) (due : Bool) : After s (s.summaryReady p t due).2 := by
  unfold State.summaryReady; split
  · exact unitReady_after _ _ _
  · exact After.refl s
theorem linkDone_mem (s : State) (vf : Nat) (h : Holder) : (s.linkDone vf h).mem = s.mem := rfl
theorem tryEmit_memOk (s : State) (b p : Nat) (line : Word) (r : FaultRec) (n : Nat) (h : s.mem.wf = true) :
    (s.tryEmit b p line r n).2.mem.wf = true := by
  have fin : ∀ u : State, u.mem.wf = true → (if r.notice = true then u else u.summary p r.vf r.tid).mem.wf = true := by
    intro u hu; split
    · exact hu
    · exact summary_memOk _ _ _ _ hu
  have h0 := (summaryReady_after s p r.tid (!r.notice)).memOk h
  unfold State.tryEmit
  dsimp only
  cases hs : s.summaryReady p r.tid (!r.notice) with
  | mk q s =>
    rw [hs] at h0
    cases q with
    | false => exact h0
    | true =>
      have h1 := access_memOk s (recordAgent p r.vf b r.tid (.record line.toNat n)) (Acc.vstore 64) line h0
      dsimp only
      cases hx : s.access (recordAgent p r.vf b r.tid (.record line.toNat n)) (Acc.vstore 64) line with
      | mk a u =>
        rw [hx] at h1
        cases a with
        | ok pl =>
          dsimp only
          split
          · exact h1
          · have h2 := linkRead_mem u p r.vf (.record line.toNat n) pl 64
            cases hr : u.linkRead p r.vf (.record line.toNat n) pl 64 with
            | mk l v =>
              rw [hr] at h2
              have h3 : v.mem.wf = true := by rw [h2]; exact h1
              cases l with
              | held => exact h3
              | lost => exact fin _ (recordDrop_memOk _ _ _ _ _ h3)
              | refused => exact fin _ (recordDrop_memOk _ _ _ _ _ h3)
              | data => exact fin _ (recordAt_memOk _ _ _ _ h3)
        | fault c d => exact fin _ (recordDrop_memOk _ _ _ _ _ h1)
        | page => exact fin _ (recordDrop_memOk _ _ _ _ _ h1)
        | ats => exact h1
        | bi => exact h1
theorem emit_memOk (s : State) (b p : Nat) (line : Word) (r : FaultRec) (n : Nat) (h : s.mem.wf = true) :
    (s.emit b p line r n).mem.wf = true := by
  have h1 := tryEmit_memOk s b p line r n h
  unfold State.emit
  cases hx : s.tryEmit b p line r n with
  | mk q u => rw [hx] at h1; cases q <;> exact h1
theorem stopWrites_memOk (s : State) (p : Nat) (pl : Place) (r : Rec) (x : Regs) (rc : Option FaultRec) (h : s.mem.wf = true) :
    (s.stopWrites p pl r x rc).mem.wf = true := by
  have h1 : (if r.save then s.agentStore p r.vf (pl.shift 0x40) x.stopBytes false else s).mem.wf = true := by
    split
    · exact agentStore_memOk _ _ _ _ _ _ h
    · exact h
  unfold State.stopWrites
  cases rc with
  | none => exact h1
  | some f => exact recordAt_memOk _ _ _ _ h1
/-- A stop's block and record keep memory canonical if what follows them does. -/
theorem stopRecord_memOk (s : State) (g : Agent) (b : Nat) (r : Rec) (x : Regs) (rc : Option FaultRec) (wait fin : State → State)
    (h : s.mem.wf = true) (hw : ∀ u : State, u.mem.wf = true → (wait u).mem.wf = true)
    (hf : ∀ u : State, u.mem.wf = true → (fin u).mem.wf = true) : (s.stopRecord g b r x rc wait fin).mem.wf = true := by
  have h0 := (summaryReady_after s r.part r.tid rc.isSome).memOk h
  unfold State.stopRecord
  dsimp only
  split
  · exact hw _ h
  · split
    · exact hf _ h
    · cases hs : s.summaryReady r.part r.tid rc.isSome with
      | mk q s =>
        rw [hs] at h0
        cases q with
        | false => exact hw _ h0
        | true =>
          generalize hg : { g with holder := Holder.record r.faultLine.toNat 0 } = g'
          generalize ha : { Acc.vstore 64 with n := if r.save then 4096 else 64 } = a'
          have h1 := access_memOk s g' a' r.faultLine h0
          dsimp only
          cases hx : s.access g' a' r.faultLine with
          | mk a u =>
            rw [hx] at h1
            cases a with
            | ok pl =>
              dsimp only
              have h2 : (if rc.isSome = true then u.linkRead r.part r.vf (.record r.faultLine.toNat 0) pl 64 else (.data, u)).2.mem = u.mem := by
                split
                · exact linkRead_mem _ _ _ _ _ _
                · rfl
              cases hr : (if rc.isSome = true then u.linkRead r.part r.vf (.record r.faultLine.toNat 0) pl 64 else (.data, u)) with
              | mk l v =>
                rw [hr] at h2
                have h3 : v.mem.wf = true := by rw [h2]; exact h1
                cases l with
                | held => exact hw _ h3
                | lost => exact hf _ (recordDrop_memOk _ _ _ _ _ h3)
                | refused => exact hf _ (recordDrop_memOk _ _ _ _ _ h3)
                | data => exact hf _ (stopWrites_memOk _ _ _ _ _ _ h3)
            | fault c d => exact hf _ (recordDrop_memOk _ _ _ _ _ h1)
            | page => exact hf _ (recordDrop_memOk _ _ _ _ _ h1)
            | ats => exact hw _ h1
            | bi => exact hw _ h1
theorem modRec_mem (s : State) (t : W32) (f : Rec → Rec) : (s.modRec t f).mem = s.mem := by unfold State.modRec; split <;> rfl
theorem release_mem (s : State) (k c : Nat) : (s.release k c).mem = s.mem := by
  unfold State.release; dsimp only
  split
  · rfl
  · exact modRec_mem _ _ _
theorem reply_fold_mem (l : List (Nat × Nat × Nat)) (w : Word) (s : State) :
    (l.foldl (fun (s : State) y => s.reply y.1 y.2.1 y.2.2 w) s).mem = s.mem :=
  foldl_keeps (fun t : State => t.mem = s.mem) (fun (s : State) y => s.reply y.1 y.2.1 y.2.2 w) (fun _ _ h => h) l s rfl
theorem finishStop_memOk (s : State) (k c : Nat) (h : s.mem.wf = true) : (s.finishStop k c).mem.wf = true := by
  unfold State.finishStop
  dsimp only
  split
  · exact h
  · refine stopRecord_memOk _ _ _ _ _ _ _ _ h (fun _ hu => hu) fun u hu => ?_
    rw [reply_fold_mem, release_mem]
    refine (modRec_after _ _ _).memOk ?_
    split
    · exact summary_memOk _ _ _ _ hu
    · exact hu
theorem stopDone_memOk (s : State) (k c : Nat) (h : s.mem.wf = true) : (s.stopDone k c).mem.wf = true := by
  unfold State.stopDone
  dsimp only
  split
  · exact finishStop_memOk _ _ _ h
  · exact h
theorem beginStop_memOk (s : State) (k c : Nat) (st : Stop) (h : s.mem.wf = true) : (s.beginStop k c st).mem.wf = true := by
  unfold State.beginStop
  dsimp only
  refine stopDone_memOk _ _ _ ?_
  split <;> exact h
/-- Taking a fault keeps memory canonical. -/
theorem fault_memOk (s : State) (code : Nat) (addr detail : Word) (h : s.mem.wf = true) : (s.fault code addr detail).mem.wf = true :=
  beginStop_memOk _ _ _ _ h
theorem pageNotice_memOk (s : State) (b : Nat) (t : W32) (core : Nat) (pc addr : Word) (h : s.mem.wf = true) :
    (s.pageNotice b t core pc addr).mem.wf = true := emit_memOk _ _ _ _ _ _ h
theorem waitFor_mem (s : State) (f : Ctx → Ctx) (w : Wait) : ((s.modCur f).waitFor w).mem = s.mem := rfl
theorem hold_memOk (s : State) (page : Bool) (addr : Word) (h : s.mem.wf = true) : (s.hold page addr).mem.wf = true := by
  unfold State.hold
  dsimp only
  rw [waitFor_mem]
  generalize (if page = true then some (addr.toNat / 65536) else none) = want
  split
  · exact pageNotice_memOk _ _ _ _ _ _ h
  · exact h
/-- An access of the current thread keeps it if what goes on at the place does. -/
theorem threadAccess_memOk (s : State) (a : Acc) (va : Word) (f : Place → State → State) (h : s.mem.wf = true)
    (hf : ∀ pl u, u.mem.wf = true → (f pl u).mem.wf = true) : (s.threadAccess a va f).mem.wf = true := by
  have h1 := access_memOk s s.ag a va h
  unfold State.threadAccess
  cases hx : s.access s.ag a va with
  | mk r u =>
    rw [hx] at h1
    cases r with
    | ok pl => exact hf _ _ h1
    | fault c d => exact fault_memOk _ _ _ _ h1
    | ats => exact hold_memOk _ _ _ h1
    | page => exact hold_memOk _ _ _ h1
    | bi => exact hold_memOk _ _ _ h1

/-! Stores at a home. -/

/-- A store at device memory or a tarn: its bytes are there, and every other byte and every full/empty bit is as before. -/
theorem storeAt_home_spec (s : State) (p vf : Nat) (core : Option Nat) (kc : Nat × Nat) (k : Nat) (bs : List Byte) (q : Bool)
    (hk : isHostKey k = false) : let t := s.storeAt p vf core kc (.mem k) bs q
    t.mem.bytes k bs.length = bs ∧ (∀ a, a < k ∨ k + bs.length ≤ a → t.mem.byte a = s.mem.byte a) ∧
      (∀ a, t.mem.full a = s.mem.full a) := by
  have key : ∀ u : State, u.mem = s.mem → (u.writeMem k bs q).mem.bytes k bs.length = bs ∧
      (∀ a, a < k ∨ k + bs.length ≤ a → (u.writeMem k bs q).mem.byte a = s.mem.byte a) ∧
      (∀ a, (u.writeMem k bs q).mem.full a = s.mem.full a) := by
    intro u hu
    obtain ⟨h1, h2, h3, -⟩ := writeMem_spec u k bs q
    exact ⟨h1, fun a ha => by rw [h2 a ha, hu], fun a => by rw [h3 a, hu]⟩
  simp only [State.storeAt, hk]
  split
  · rename_i hb; cases hb
  · split
    · split
      · exact key _ (by rw [tagBlock_mem, ownAll_mem])
      · exact key _ ((tagBlock_mem _ _ _ _ _).trans ((biTake_mem _ _ _).trans (recallAll_mem _ _ _)))
    · exact key _ rfl

end Sys2Proof.Machine
end

