-- ==== Sys2Proof/Machine/Evas.lean ====
section
/-! DEFINITION. evas, the assembler (R55-R60), over lines already split into their parts (log 71): names, modifiers,
expressions, LI and the directives. What evas emits is what the machine decodes; nothing of the machine depends on it. -/

namespace Sys2Proof.Machine

/-- The words before the first dot of every mnemonic, with LI: no label may bear one of these names (R55). -/
def evasWords : List String :=
  ["add", "sub", "and", "or", "xor", "shl", "shr", "sra", "rot", "min", "max", "minu", "maxu", "sel", "slt", "sltu", "mul",
   "mulh", "mulhu", "div", "divu", "rem", "remu", "clz", "ctz", "popc", "sext", "zext", "seq", "sne", "brev", "addi", "andi",
   "ori", "xori", "shli", "shri", "srai", "slti", "movi", "lis", "fadd", "fsub", "fmul", "fdiv", "fsqrt", "fmin", "fmax"] ++
  ["ffma", "fcvt", "fclass", "feq", "flt", "fle", "beq", "bne", "blt", "bge", "bltu", "bgeu", "j", "jal", "jr", "jalr", "sete",
   "gete", "rdts", "rdid", "poolw", "yield", "ld", "lds", "st", "ldfe", "ldf", "stef", "stf", "fence", "feget", "feset", "pref",
   "flush", "gjoin", "gleave", "gload", "amo", "cas", "vadd", "vsub", "vmul", "vdiv", "vmin", "vmax", "vabs", "vneg", "vsqrt"] ++
  ["vrcp", "vrsq", "vexp2", "vlog2", "vminu", "vmaxu", "vshl", "vshr", "vsra", "vand", "vor", "vxor", "vfma", "vfms", "vfnma",
   "vcmp", "vsel", "vtest", "vcvt", "vpack", "vunpk", "vscale", "vperm", "vbcast", "vred", "vmovg", "vmovv", "vlane", "vld",
   "vst", "vlds", "vsts", "vgath", "vscat", "vstm", "vldm", "xclr", "xadd", "xmadd", "xrnd", "xmerge", "mma", "mmag", "mzero"] ++
  ["mload", "mdrain", "mdres", "accrd", "mstat", "dpload", "cpy", "cpys", "cpyg", "fill", "gate", "watch", "unwatch", "spawn",
   "migrate", "wake", "sleep", "send", "sendn", "recv", "recvn", "tstop", "tstart", "tread", "twrite", "treap", "tstat", "nest",
   "iter", "svc", "codemap", "xlinv", "preempt", "pcrd", "pcset", "nop", "mov", "bz", "bnz", "ret", "once", "pool", "ldd", "std",
   "end", "li"]

/-- Register names and how many there are (R55, R56). -/
def evasRegs : List (Char × Nat) := [('g', 32), ('v', 24), ('e', 8), ('i', 3), ('a', 8)]
/-- Decimal digits as a number written without leading zeros. -/
def decimal (cs : List Char) : Option Nat :=
  if cs.isEmpty || !cs.all Char.isDigit || (cs.length > 1 && cs.head? == some '0') then none
  else some (cs.foldl (fun n c => 10 * n + (c.toNat - 48)) 0)
/-- A register name (R56). -/
def isRegName : List Char → Bool
  | c :: ds => match decimal ds with
    | some n => evasRegs.any fun r => r.1 == c && decide (n < r.2)
    | none => false
  | [] => false
/-- A name a label may bear (R55). -/
def isName (s : String) : Bool :=
  let cs := s.toList
  let low := cs.map Char.toLower
  (match cs with | c :: _ => c.isAlpha || c == '_' | [] => false) && (cs.all fun c => c.isAlpha || c.isDigit || c == '_') &&
  !isRegName low && !(evasWords.any fun w => w.toList == low)

/-- A modifier as written after a dot (R57). -/
inductive Mod | size (s : Size) | order (o : Order) | scope (c : Scope) | type (t : VType) | rm (r : Rm) deriving DecidableEq, Repr
/-- Its place in the fixed order (R57). -/
def Mod.rank : Mod → Nat | .size _ => 1 | .order _ => 2 | .scope _ => 3 | .type _ => 4 | .rm _ => 5
/-- The modifiers of a line, each omitted one at its default; a type has none (R57, R103). -/
structure Mods where
  size : Size
  order : Order
  scope : Scope
  type : Option VType
  rm : Rm
  deriving DecidableEq, Repr
/-- One modifier read. -/
def Mods.add (m : Mods) : Mod → Mods
  | .size s => { m with size := s }
  | .order o => { m with order := o }
  | .scope c => { m with scope := c }
  | .type t => { m with type := some t }
  | .rm r => { m with rm := r }
/-- Numbers strictly rising. -/
def rising : List Nat → Bool
  | a :: b :: l => decide (a < b) && rising (b :: l)
  | _ => true
/-- The modifiers written, none where their order or a scope without a non-plain order makes the line an error (R57). -/
def readMods (ms : List Mod) : Option Mods :=
  let m := ms.foldl Mods.add { size := .d, order := .plain, scope := .core, type := none, rm := .rne }
  let wide := ms.any fun x => x.rank == 3
  if rising (ms.map Mod.rank) && !(wide && m.order == .plain) then some m else none

/-- Expressions (R58). -/
inductive Expr
  | num (n : Word) | name (n : String) | slot (n : String) | neg (x : Expr) | not (x : Expr)
  | add (x y : Expr) | sub (x y : Expr) | mul (x y : Expr) | div (x y : Expr) | mod (x y : Expr)
  | shl (x y : Expr) | shr (x y : Expr) | and (x y : Expr) | xor (x y : Expr) | or (x y : Expr)
  deriving DecidableEq, Repr
/-- What names stand for: values, and slots of `.drain` names. In a draft, which only lays the source out, what is not
known yet is 0. -/
structure Names where
  draft : Bool
  vals : List (String × Word)
  slots : List (String × Nat)
  deriving DecidableEq, Repr
def Names.val (e : Names) (n : String) : Option Word := (e.vals.find? fun x => x.1 == n).map fun x => x.2
/-- The value of an expression; none where evas reports an error (R58). -/
def Expr.eval (e : Names) : Expr → Option Word
  | .num n => some n
  | .name n => e.val n
  | .slot n => (e.slots.find? fun x => x.1 == n).map fun x => BitVec.ofNat 64 x.2
  | .neg x => (x.eval e).map fun x => 0#64 - x
  | .not x => (x.eval e).map fun x => ~~~x
  | .add x y => do return (← x.eval e) + (← y.eval e)
  | .sub x y => do return (← x.eval e) - (← y.eval e)
  | .mul x y => do return (← x.eval e) * (← y.eval e)
  | .div x y => do
    let b ← y.eval e
    if b = 0#64 then none else return (← x.eval e).sdiv b
  | .mod x y => do
    let b ← y.eval e
    if b = 0#64 then none else return (← x.eval e).srem b
  | .shl x y => do
    let n ← y.eval e
    if n.toNat < 64 then return (← x.eval e) <<< n.toNat else none
  | .shr x y => do
    let n ← y.eval e
    if n.toNat < 64 then return (← x.eval e).sshiftRight n.toNat else none
  | .and x y => do return (← x.eval e) &&& (← y.eval e)
  | .xor x y => do return (← x.eval e) ^^^ (← y.eval e)
  | .or x y => do return (← x.eval e) ||| (← y.eval e)

def Names.get (e : Names) (x : Expr) : Option Word := if e.draft then some ((x.eval e).getD 0#64) else x.eval e

/-- A value that fits a signed, or an unsigned, n-bit field (R58). -/
def sfield (n : Nat) (x : Word) : Option (BitVec n) := if (x.setWidth n).signExtend 64 = x then some (x.setWidth n) else none
def ufield (n : Nat) (x : Word) : Option (BitVec n) := if x.toNat < 2 ^ n then some (x.setWidth n) else none
/-- The parcel offset of a branch at pc to a target (R38, R56). -/
def offField (n : Nat) (pc x : Word) : Option (BitVec n) := if (x - pc).getLsbD 0 then none else sfield n ((x - pc).sshiftRight 1)
/-- The byte offset of a memory operand whose accesses are n bytes (R56). -/
def memField (n : Nat) (x : Word) : Option (BitVec 8) := if x.toInt % n = 0 then sfield 8 (BitVec.ofInt 64 (x.toInt / n)) else none
/-- An instruction with the value of its expression in its immediate, offset or target (R56, R58, R102). -/
def withValue (i : Instr) (pc x : Word) : Option Instr :=
  match i with
  | .addi d a _ => (sfield 15 x).map (.addi d a)
  | .andi d a _ => (ufield 15 x).map (.andi d a)
  | .ori d a _ => (ufield 15 x).map (.ori d a)
  | .xori d a _ => (ufield 15 x).map (.xori d a)
  | .shli d a _ => (ufield 6 x).map (.shli d a)
  | .shri d a _ => (ufield 6 x).map (.shri d a)
  | .srai d a _ => (ufield 6 x).map (.srai d a)
  | .slti d a _ => (sfield 15 x).map (.slti d a)
  | .movi d _ => (sfield 15 x).map (.movi d)
  | .lis d _ => (ufield 15 x).map (.lis d)
  | .beq a b _ => (offField 15 pc x).map (.beq a b)
  | .bne a b _ => (offField 15 pc x).map (.bne a b)
  | .blt a b _ => (offField 15 pc x).map (.blt a b)
  | .bge a b _ => (offField 15 pc x).map (.bge a b)
  | .bltu a b _ => (offField 15 pc x).map (.bltu a b)
  | .bgeu a b _ => (offField 15 pc x).map (.bgeu a b)
  | .j _ => (offField 25 pc x).map .j
  | .jal _ => (offField 25 pc x).map .jal
  | .ld s o c d a _ => (memField (sizeBytes s) x).map (.ld s o c d a)
  | .lds s o c d a _ => (memField (sizeBytes s) x).map (.lds s o c d a)
  | .st s o c d a _ => (memField (sizeBytes s) x).map (.st s o c d a)
  | .ldfe o c d a _ => (memField 8 x).map (.ldfe o c d a)
  | .ldf o c d a _ => (memField 8 x).map (.ldf o c d a)
  | .stef o c d a _ => (memField 8 x).map (.stef o c d a)
  | .stf o c d a _ => (memField 8 x).map (.stf o c d a)
  | .vld o c d a _ => (memField 64 x).map (.vld o c d a)
  | .vst o c d a _ => (memField 64 x).map (.vst o c d a)
  | .addiS d _ => (sfield 6 x).map (.addiS d)
  | .bz d _ => (offField 6 pc x).map (.bz d)
  | .bnz d _ => (offField 6 pc x).map (.bnz d)
  | .jS _ => (offField 11 pc x).map .jS
  | .shliS d _ => (ufield 6 x).map (.shliS d)
  | .pool _ => (ufield 6 x).map .pool
  | .poolw _ => (ufield 15 x).map .poolw
  | _ => none

/-- How many LIS words follow LI's MOVI (R59). -/
def liCount (x : Word) : Nat :=
  if (sfield 15 x).isSome then 0 else if (sfield 30 x).isSome then 1 else if (sfield 45 x).isSome then 2
  else if (sfield 60 x).isSome then 3 else 4
/-- LI (R59). -/
def expandLi (d : GReg) (x : Word) : List Instr :=
  .movi d ((x.sshiftRight (15 * liCount x)).setWidth 15) ::
    (List.range (liCount x)).reverse.map fun j => .lis d ((x >>> (15 * j)).setWidth 15)

/-- The keys of `.launch` that take a value (R60). -/
inductive LaunchKey | entry | arg | done | faults | inbox | first | count | threads | stages | prio | weight | table | vf
  deriving DecidableEq, Repr
/-- The values of a `.launch` (R60). -/
structure LaunchKeys where
  entry : Word
  arg : Word
  done : Word
  faults : Word
  inbox : Word
  first : Nat
  count : Nat
  threads : Nat
  stages : Nat
  prio : Nat
  weight : Nat
  table : Nat
  vf : Nat
  save : Bool
  keep : Bool
  roam : Bool
  deriving DecidableEq, Repr
/-- Every key not written is zero (R60). -/
def LaunchKeys.zero (save keep roam : Bool) : LaunchKeys :=
  { entry := 0#64, arg := 0#64, done := 0#64, faults := 0#64, inbox := 0#64, first := 0, count := 0, threads := 0, stages := 0, prio := 0,
    weight := 0, table := 0, vf := 0, save := save, keep := keep, roam := roam }
/-- A key with its value. -/
def LaunchKeys.set (k : LaunchKeys) (n : LaunchKey) (x : Word) : LaunchKeys :=
  match n with
  | .entry => { k with entry := x }
  | .arg => { k with arg := x }
  | .done => { k with done := x }
  | .faults => { k with faults := x }
  | .inbox => { k with inbox := x }
  | .first => { k with first := x.toNat }
  | .count => { k with count := x.toNat }
  | .threads => { k with threads := x.toNat }
  | .stages => { k with stages := x.toNat }
  | .prio => { k with prio := x.toNat }
  | .weight => { k with weight := x.toNat }
  | .table => { k with table := x.toNat }
  | .vf => { k with vf := x.toNat }
/-- The keys as written, with the values of their expressions under some names (R58, R60). -/
def launchKeys (e : Names) (ks : List (LaunchKey × Expr)) (save keep roam : Bool) : Option LaunchKeys :=
  ks.foldlM (fun k x => (e.get x.2).map (k.set x.1)) (LaunchKeys.zero save keep roam)
/-- The limits of R24 that do not depend on the partition. -/
def LaunchKeys.ok (k : LaunchKeys) : Bool :=
  !k.entry.getLsbD 0 && k.done.toNat % 64 == 0 && k.faults.toNat % (if k.save then 4096 else 64) == 0 && k.inbox.toNat % 64 == 0 &&
  decide (k.first < 65536) && decide (1 ≤ k.count) && decide (k.count < 65536) && decide (1 ≤ k.threads) && decide (k.threads ≤ 255) &&
  decide (1 ≤ k.stages) && decide (k.stages ≤ 8) && decide (k.stages ≤ k.count) && decide (k.prio ≤ 3) && decide (1 ≤ k.weight) &&
  decide (k.weight ≤ 15) && decide (k.table ≤ 1023) && decide (k.vf ≤ 191)
/-- The launch record (R24). -/
def LaunchKeys.record (k : LaunchKeys) : List Byte :=
  ([k.entry, k.arg, k.done, k.faults, k.inbox].flatMap fun w => natBytes 8 w.toNat) ++ natBytes 2 k.first ++ natBytes 2 k.count ++
  natBytes 1 k.threads ++ natBytes 1 k.stages ++ natBytes 1 (k.prio + k.roam.toNat * 4 + k.keep.toNat * 8 + k.save.toNat * 16) ++
  natBytes 1 k.weight ++ natBytes 2 k.table ++ natBytes 1 k.vf ++ natBytes 13 0

/-- What may stand in a pool, or outside `.text`: labels, alignment and data (R60). -/
inductive Datum | label (n : String) | align (n : Nat) | data (width : Nat) (xs : List Expr) deriving DecidableEq, Repr
/-- A source line (R55, R60): an instruction with the expression of its immediate, offset or target, if it has one. -/
inductive Line
  | datum (x : Datum) | code (i : Instr) (x : Option Expr) | li (d : GReg) (x : Expr) | sec (n : String)
  | equ (n : String) (x : Expr) | global (n : String) | pool (xs : List Datum) | launch (n : String) (keys : List (LaunchKey × Expr)) (save keep roam : Bool)
  | drain (n : String) (slot : Nat) (ops : List W32) | tarn (n : String) (size align : Nat) | group (n : String) (num : Nat)
  deriving DecidableEq, Repr

/-- The bytes of a section so far. -/
structure Section where
  name : String
  base : Word
  bytes : List Byte
  deriving DecidableEq, Repr
/-- The address of its next byte. -/
def Section.here (s : Section) : Word := s.base + BitVec.ofNat 64 s.bytes.length
/-- What evas has emitted: sections with the addresses a loader gives them, names, exports, the tarn layout so far. -/
structure Asm where
  secs : List Section
  cur : String
  names : Names
  globals : List String
  tarnTop : Nat
  deriving DecidableEq, Repr
def Asm.sec (a : Asm) : Option Section := a.secs.find? fun s => s.name == a.cur
def Asm.put (a : Asm) (bs : List Byte) : Asm :=
  { a with secs := a.secs.map fun s => if s.name == a.cur then { s with bytes := s.bytes ++ bs } else s }
/-- A name defined, once. -/
def Asm.define (a : Asm) (n : String) (x : Word) : Option Asm :=
  if isName n && (a.names.val n).isNone then some { a with names := { a.names with vals := a.names.vals ++ [(n, x)] } } else none
def isPow2 (n : Nat) : Bool := decide (0 < n) && decide (n &&& (n - 1) = 0)
/-- Padding to an n-byte boundary: zero bytes are 0x0000 parcels (R60). -/
def Asm.align (a : Asm) (n : Nat) : Option Asm := do
  let s ← a.sec
  if isPow2 n && (a.cur != ".text" || decide (2 ≤ n)) then some (a.put (List.replicate ((n - s.here.toNat % n) % n) 0#8)) else none
/-- Data, under the names of the pass before (R60). -/
def Asm.datum (e : Names) (a : Asm) : Datum → Option Asm
  | .label n => do a.define n (← a.sec).here
  | .align n => a.align n
  | .data w xs => do some (a.put ((← xs.mapM e.get).flatMap fun x => natBytes w x.toNat))
/-- One instruction. -/
def Asm.instr (a : Asm) (i : Instr) : Option Asm := if a.cur == ".text" && !(encode i).isEmpty && i.wf then some (a.put (encode i)) else none
/-- The pool's content after a header of some size: its parcels (R60). -/
def Asm.poolWith (e : Names) (a : Asm) (xs : List Datum) (head : Nat) : Option (Asm × Nat) := do
  let start := (← a.sec).bytes.length + head
  let a ← xs.foldlM (Asm.datum e) (a.put (List.replicate head 0#8))
  let n := (← a.sec).bytes.length - start
  some (if n % 2 = 1 then a.put [0#8] else a, (n + 1) / 2)
/-- The header written over its place. -/
def Asm.patch (a : Asm) (start : Nat) (bs : List Byte) : Asm :=
  { a with secs := a.secs.map fun s => if s.name == a.cur
      then { s with bytes := s.bytes.take start ++ bs ++ s.bytes.drop (start + bs.length) } else s }
/-- `.pool` to `.endpool` (R60). -/
def Asm.pool (e : Names) (a : Asm) (xs : List Datum) : Option Asm := do
  if a.cur != ".text" then none
  let start := (← a.sec).bytes.length
  let (s, n) ← a.poolWith e xs 2
  if n ≤ 63 then return s.patch start (encode (.pool (BitVec.ofNat 6 n)))
  let (l, m) ← a.poolWith e xs 4
  if m ≤ 32767 then return l.patch start (encode (.poolw (BitVec.ofNat 15 m))) else none

/-- One line (R55-R60), under the names of the pass before; none where evas reports an error. -/
def Asm.line (e : Names) (a : Asm) : Line → Option Asm
  | .datum (.data w xs) => if a.cur == ".text" then none else a.datum e (.data w xs)
  | .datum x => a.datum e x
  | .code i none => a.instr i
  | .code i (some x) => if e.draft then a.instr i else do a.instr (← withValue i (← a.sec).here (← x.eval e))
  | .li d x => do (expandLi d (← e.get x)).foldlM Asm.instr a
  | .sec n => if a.secs.any fun s => s.name == n then some { a with cur := n } else none
  | .equ n x => do a.define n (← e.get x)
  | .global n => some { a with globals := a.globals ++ [n] }
  | .pool xs => a.pool e xs
  | .launch n keys save keep roam => do
    let k ← launchKeys e keys save keep roam
    if a.cur == ".text" || !(e.draft || k.ok) then none
    let a ← a.align 64
    return (← a.define n (← a.sec).here).put k.record
  | .drain n slot ops => do
    let words := (ops.map fun w => w.toNat) ++ List.replicate (16 - ops.length) 0
    if a.cur == ".text" || decide (63 < slot) || decide (16 < ops.length) || (imageBad words 0).isSome ||
      (a.names.slots.any fun x => x.2 == slot) then none
    let a ← a.align 64
    let a ← a.define n (← a.sec).here
    return ({ a with names := { a.names with slots := a.names.slots ++ [(n, slot)] } } : Asm).put (words.flatMap (natBytes 4))
  | .tarn n size align => do
    let at' := (a.tarnTop + align - 1) / align * align
    if align = 0 ∨ 2 ^ 22 < at' + size then none
    return { ← a.define n (BitVec.ofNat 64 at') with tarnTop := at' + size }
  | .group n num => if num ≤ 63 then a.define n (BitVec.ofNat 64 num) else none

/-- A pass over the source, under the names of the pass before: `.text` ends padded to a multiple of 64 KiB (R60). -/
def evasPass (bases : List (String × Word)) (src : List Line) (e : Names) : Option Asm := do
  let a : Asm :=
    { secs := bases.map fun b => { name := b.1, base := b.2, bytes := [] }, cur := ".text", names := { draft := e.draft, vals := [], slots := [] },
      globals := [], tarnTop := 0 }
  let a ← src.foldlM (Asm.line e) a
  return { a with secs := a.secs.map fun s => if s.name == ".text"
    then { s with bytes := s.bytes ++ List.replicate ((65536 - s.bytes.length % 65536) % 65536) 0#8 } else s }
/-- Drafts until the names stay the same. -/
def evasDraft (bases : List (String × Word)) (src : List Line) : Nat → Names → Option Names
  | 0, e => some e
  | n + 1, e => do
    let a ← evasPass bases src e
    if a.names = e then some e else evasDraft bases src n a.names
/-- What evas emits for a source whose sections a loader puts at `bases`, none where it reports an error (R58). -/
def evas (bases : List (String × Word)) (src : List Line) : Option Asm := do
  let e ← evasDraft bases src 8 { draft := true, vals := [], slots := [] }
  let e := { e with draft := false }
  let a ← evasPass bases src e
  if a.names = e then some a else none

end Sys2Proof.Machine
end

