-- ==== Sys2Proof/Tests/Slice0.lean ====
section
/-! SUPPORT. Tests of the model: ill-formed terms that WellFormed refuses, words written out from the encoding tables, states that
meet the hypotheses of the statements (witnesses), and single instructions whose results the spec gives. -/

open Sys2Proof Sys2Proof.Machine

namespace Sys2Proof.Tests

/- One test at a time: a test waits for the kernel, and many that wait at once take a thread each. -/
set_option Elab.async false

/-! Ill-formed terms: one for each check of WellFormed. -/

theorem test_wf_sizes : Instr.wf (.sext .d 1 2) = false ∧ Instr.wf (.zext .d 1 2) = false ∧ Instr.wf (.lds .d .plain .core 1 2 0) = false := by
  decide
theorem test_wf_xfile : Instr.wf (.sete .e 8 1) = false ∧ Instr.wf (.gete .i 1 3) = false ∧ Instr.wf (.sete .e 7 1) = true := by decide
theorem test_wf_orders : Instr.wf (.ld .d .rel .core 1 2 0) = false ∧ Instr.wf (.ld .d .plain .clu 1 2 0) = false ∧
    Instr.wf (.lds .w .rel .core 1 2 0) = false ∧ Instr.wf (.st .d .acq .core 1 2 0) = false ∧ Instr.wf (.ldfe .rel .core 1 2 0) = false ∧
    Instr.wf (.ldf .plain .blk 1 2 0) = false ∧ Instr.wf (.stef .acq .core 1 2 0) = false ∧ Instr.wf (.stf .plain .sys 1 2 0) = false ∧
    Instr.wf (.fence .plain .core) = false ∧ Instr.wf (.amoAdd true .plain .part 1 2 3) = false ∧
    Instr.wf (.cas true .plain .dev 1 2 3) = false ∧ Instr.wf (.vld .rel .core 1 2 0) = false ∧ Instr.wf (.vst .acq .core 1 2 0) = false := by
  decide
theorem test_wf_vregs : Instr.wf (.vadd .f32 24 1 2) = false ∧ Instr.wf (.vaddI .w 1 24 2) = false ∧ Instr.wf (.vfma 0 .f32 1 2 24) = false ∧
    Instr.wf (.vcmp .eq 1 24 2) = false ∧ Instr.wf (.vbcast .w 24 1) = false ∧ Instr.wf (.vgath true 1 2 31) = false ∧
    Instr.wf (.accrd 24 0 1) = false ∧ Instr.wf (.xadd false .vf32 1 24) = false ∧ Instr.wf (.xadd false .f32 1 24) = true ∧
    Instr.wf (.xmadd false true 1 2 24) = false := by decide
theorem test_wf_lanes : Instr.wf (.vfmaBcast 0 .f64 8 1 2 3) = false ∧ Instr.wf (.vfmaBcast 0 .f32 8 1 2 3) = true ∧
    Instr.wf (.vmovg 24 1 2) = false ∧ Instr.wf (.vlane 25 1 2) = false ∧ Instr.wf (.vcvt .i32f32 1 2 3) = false ∧
    Instr.wf (.vscale .bf16 1 2 3) = false ∧ Instr.wf (.vstm 8 16 1) = false ∧ Instr.wf (.vldm 7 16 1) = true := by decide
theorem test_wf_mask : Instr.wf (.twrite 0 1 2 3) = false := by decide
theorem test_wf_agents : Instr.wf (.bind 1536 0) = false ∧ Instr.wf (.bind 25 0) = false ∧ Instr.wf (.bind 24 4) = false ∧
    Instr.wf (.bind 23 16) = false ∧ Instr.wf (.watchWake 0 5) = false ∧ Instr.wf (.coarseWake 48) = false ∧
    Instr.wf (.slotMap 0 64) = false ∧ Instr.wf (.grainChange 0 8) = false ∧ Instr.wf (.drainRow 6) = false ∧
    Instr.wf (.outboundForward 7) = false ∧ Instr.wf (.outboundForward 6) = true ∧ Instr.wf (.groupFillData 0 64) = false ∧
    Instr.wf (.doorbellWrite 2 0 0 0) = false ∧ Instr.wf (.doorbellWrite 0 192 0 0) = false ∧ Instr.wf (.doorbellWrite 0 0 1024 0) = false ∧
    Instr.wf (.laneStop 72 0) = false ∧ Instr.wf (.laneGo 0 4) = false ∧ Instr.wf (.windowTableWrite 0 8 false 0) = false ∧
    Instr.wf (.overtempReset 8 true) = false ∧ Instr.wf (.functionLevelReset 192) = false := by decide

/-! Decoding: words written out field by field from R39-R46, bit 31 first. -/

/-- What the decoder reads from a word, and from a parcel. -/
def word (w : BitVec 32) : Option Instr := decodeTableWord 32 w.toNat
def parcel (h : BitVec 16) : Option Instr := decodeTableWord 16 h.toNat

theorem test_decode_integer : word 0b000000_0010_00111_00110_00101_000000_1#32 = some (.and 5 6 7) ∧
    word 0b000000_0011_00111_00110_00101_000001_1#32 = some (.div 5 6 7) ∧
    word 0b000010_1011_00000_00110_00101_000001_1#32 = some (.zext .w 5 6) := by decide +kernel
theorem test_decode_immediate : word 0b110000000111111_00110_00101_000110_1#32 = none ∧
    word 0b100000000111111_00110_00101_000110_1#32 = some (.srai 5 6 63) ∧
    word 0b000000000000111_00000_00101_001000_1#32 = some (.movi 5 7) := by decide +kernel
theorem test_decode_float : word 0b010101_1000_00000_00110_00101_001010_1#32 = some (.fcvt .fi .f64 .rdn 5 6) ∧
    word 0b000000_1001_00000_00110_00101_001010_1#32 = some (.fclass .f32 5 6) := by decide +kernel
theorem test_decode_control : word 0b111111111111111_00010_00001_010000_1#32 = some (.bgeu 1 2 (-1)) ∧
    word 0b000000_0001_00000_00010_00001_010011_1#32 = some (.jalr 1 2) ∧
    word 0b000000_0100_000000000100010_010100_1#32 = some (.poolw 34) := by decide +kernel
theorem test_decode_special : word 0b000010_0011_00000_00000_00101_010100_1#32 = some (.rdid .part 5) ∧
    word 0b000000_0101_00000_00000_00000_010100_1#32 = some .yieldG := by decide +kernel
theorem test_decode_memory : word 0b11110000_101_11_01_00010_00001_010110_1#32 = some (.lds .h .sc .sys 1 2 (-16)) ∧
    word 0b00000001_000_00_11_00010_00001_011010_1#32 = some (.stef .plain .core 1 2 1) ∧
    word 0b000111_0000_00000_00000_00000_011100_1#32 = some (.fence .sc .clu) := by decide +kernel
theorem test_decode_atomic : word 0b101001_1001_00011_00010_00001_011101_1#32 = some (.amoFadd true .acq .blk 1 2 3) := by decide +kernel
theorem test_decode_vector : word 0b01001_00011_00011_00010_00001_100000_1#32 = some (.vsraI .d 1 2 3) ∧
    word 0b000_11_00111_00011_00010_00001_100001_1#32 = some (.vfmaBcast 0 .f64 7 1 2 3) ∧
    word 0b10_011_00100_00011_00010_00001_100010_1#32 = some (.vtest .count 4 1 2 3) ∧
    word 0b00010_10011_00000_00010_00001_100011_1#32 = some (.vunpk .e2m3 true 1 2) ∧
    word 0b00010_00111_00000_00010_00001_100100_1#32 = some (.vred .faddf64 1 2) ∧
    word 0b00001_10111_00000_00010_00000_101000_1#32 = some (.vldm 23 0 2) := by decide +kernel
theorem test_decode_basin : word 0b000011_0001_00011_00010_00000_101001_1#32 = some (.xadd false .vf64 2 3) := by decide +kernel
theorem test_decode_engine : word 0b000000_0101_00101_00000_00100_101010_1#32 = some (.mdres 4 5) ∧
    word 0b000000_0110_00111_00010_00001_101010_1#32 = some (.accrd 1 7 2) ∧
    word 0b010100_0011_00000_00000_00100_101011_1#32 =
      some (.fill { dec := false, scope := .sys, rel := false, acq := false } 4) := by decide +kernel
theorem test_decode_threads : word 0b000000_0011_00000_00010_00000_101100_1#32 = some (.migrate 2) ∧
    word 0b000000_0011_00000_00000_00001_101101_1#32 = some (.recvn 1) ∧
    word 0b010101_0011_00011_00010_00001_101110_1#32 = some (.twrite 21 1 2 3) ∧
    word 0b000001_0001_00000_00000_00000_101111_1#32 = some .iterStep ∧
    word 0b000001_0101_00011_00010_00000_110000_1#32 = some (.pcsetVal 2 3) := by decide +kernel
theorem test_decode_parcels : parcel 0#16 = some .nop ∧ parcel 0b000000_00000_1001_0#16 = some .once ∧
    parcel 0b0_00010_00001_1011_0#16 = some (.lddS 1 2) ∧ parcel 0b11111111111_0101_0#16 = some (.jS (-1)) ∧
    parcel 0b000101_00000_1010_0#16 = some (.pool 5) ∧ parcel 0b1_00010_00001_1100_0#16 = none ∧
    parcel 0b000000_00000_1111_0#16 = none := by decide +kernel
theorem test_decode_reserved : word 0b000000_1111_00000_00010_00001_000001_1#32 = none ∧
    word 0b000000_0000_00000_00000_00000_110001_1#32 = none ∧ word 0b000001_0000_00111_00110_00101_000000_1#32 = none ∧
    word 0b00000_00100_00011_00010_00001_011111_1#32 = none ∧ word 0b00000010_110_01_10_01001_00100_010101_1#32 = none := by
  decide +kernel

/-! Witnesses: states and operands that meet the hypotheses of the statements. -/

/-- A thread bound to context 1 of core 0, in partition 0 of bulkhead 0; and in context 0 of its deep core. -/
def base : State := State.reset.withProgram
def me (s : State) (f : Rec → Rec) : State := s.setSlot 0 1 (f (s.slotRec 0 1))
def pt (s : State) (f : Part → Part) : State := s.modPart 0 f
def deep : State :=
  me { (base.modCtx 24 0 fun _ => base.cc).modCtx 0 1 fun _ => Ctx.empty with cur := (24, 0) } fun r =>
    { r with deep := true, place := some (24, 0) }
/-- Registers of the current context. -/
def gs (s : State) (l : List (Nat × Word)) : State := s.modCur fun c => c.modRegs fun r => l.foldl (fun r x => r.setG x.1 x.2) r
def es (s : State) (l : List (Nat × Word)) : State := s.modCur fun c => c.modRegs fun r => l.foldl (fun r x => r.setE x.1 x.2) r
def vs (s : State) (l : List (Nat × Vec)) : State := s.modCur fun c => c.modRegs fun r => l.foldl (fun r x => r.setV x.1 x.2) r
/-- Translations of PASID 0 in bulkhead 0: VA 0x10_0000 to device memory, VA 0x20_0000 to host memory. -/
def mapped (s : State) : State :=
  let e (v n p : Nat) : TlbEntry := { tag := 0, pasid := 0, vpage := v, pages := n, ppage := p, win := none, r := true, w := true }
  (pt s fun p => { p with tags := [{ tag := 0, pasid := 0, epoch := false, used := 0 }] }).modBulk 0 fun b =>
    { b with tlb := [e 16 16 16, e 32 16 (2 ^ 20)] }
/-- And VA 0x30_0000 to the memory of partition 1, which is bulkhead 1 and runs. -/
def two (s : State) : State :=
  (((mapped s).modBulk 0 fun b => { b with tlb := b.tlb ++
      [{ tag := 0, pasid := 0, vpage := 48, pages := 1, ppage := 2 ^ 18, win := some 1, r := true, w := true }] }).modPart 1 fun p =>
    { p with bulks := [1] }).setDesc 1 0x10 1#64 |>.setDesc 1 0x18 (BitVec.ofNat 64 (2 ^ 34))
/-- The state an instruction or event leaves. -/
def run (s : State) (i : Instr) : State := match exec i s with | .next t => t | _ => s
/-- An address of the own tarn, and its key. -/
def near (o : Nat) : Word := BitVec.ofNat 64 (0xffff000000000000 + o)
def tk (o : Nat) : Nat := tarnKey 0 o

theorem wit_DivisionCorners : let s := gs base [(1, 0x8000000000000000#64), (2, 0xffffffffffffffff#64)]
    s.g 3 = 0#64 ∧ (s.g 1).toInt = -2 ^ 63 ∧ (s.g 2).toInt = -1 := by decide +kernel
theorem wit_ImmediatesAndDivision : let s := gs base [(1, 7#64), (2, 2#64)]
    s.g 2 ≠ 0#64 ∧ ¬((s.g 1).toInt = -2 ^ 63 ∧ (s.g 2).toInt = -1) := by decide +kernel
theorem wit_ControlTransfers : let s := gs base [(1, 0x100#64), (2, 0x101#64), (31, 0x203#64)]
    (s.g 1).getLsbD 0 = false ∧ (s.g 2).getLsbD 0 = true ∧ (s.g 31).getLsbD 0 = true ∧ (base.g 31).getLsbD 0 = false := by decide +kernel
theorem wit_FloatCodesExact : fp32 ∈ [fp64, fp32, bf16, fp16, e5m2, e4m3, e3m2, e2m3] ∧ 0x7fc00001 < 2 ^ fp32.width ∧
    fp32.value 0x7fc00001 = .nan ∧ fp32.value 1 ≠ .nan := by decide +kernel
theorem wit_DirectedRounding : bf16 ∈ [fp64, fp32, bf16, fp16] ∧ 0x3f80 < 2 ^ bf16.width ∧ bf16.value 0x3f80 ≠ .nan ∧
    (Fv.fin false 3 (-1)).lt (bf16.value 0x3f80) = false ∧ (bf16.value 0x3f80).lt (.fin false 1 (-1)) = false := by decide +kernel
theorem wit_VectorFloatResults : isDeep base.cur.1 = false := by decide +kernel
theorem wit_VectorIntegerResults : isDeep base.cur.1 = false := by decide +kernel
theorem wit_VectorMasksAndMoves : isDeep base.cur.1 = false ∧ (15#5).toNat < 16 ∧ (16 ≤ (16#5).toNat ∧ (16#5).toNat < 24) ∧
    (16 ≤ (23#5).toNat ∧ (23#5).toNat < 24) ∧ (24#5).toNat = 24 := by decide +kernel
theorem wit_VectorReductionsAndConversions : isDeep base.cur.1 = false ∧
    (let s := vs base [(1, 0x7f#512)]; e4m3.value (elem 8 (s.v 1) 0) = .nan ∧ e4m3.value (elem 8 (s.v 1) 1) ≠ .nan) := by decide +kernel
theorem wit_DeepCoreHasNoUnits : isDeep deep.cur.1 = true ∧
    ∃ w, encodeWord (.vadd .f32 1 2 3) = some w ∧ 0x1f ≤ bitsOf w 1 6 ∧ bitsOf w 1 6 ≤ 0x2a :=
  ⟨by decide +kernel, _, rfl, by decide +kernel⟩
theorem wit_BasinInstructions : let s := gs base [(1, near (2 ^ 22 - 64)), (2, near 64), (3, 0x40#64)]
    isDeep s.cur.1 = false ∧ 5 < 6 * (s.part s.me.part).n ∧ s.basinKey (s.g 1) = some (tk (2 ^ 22 - 64)) ∧
    s.basinKey (s.g 2) = some (tk 64) ∧ s.basinKey (s.g 3) = none ∧ s.basinKey (s.g 2) ≠ none := by decide +kernel
theorem wit_BasinArithmetic : (let s := run (gs base [(1, near 0), (2, 0xff6a#64), (3, near 64)]) (.xclr false 1 2)
    isDeep s.cur.1 = false ∧ s.basinKey (s.g 1) = some (tk 0) ∧ s.basinKey (s.g 3) = some (tk 64) ∧
    (-1200 ≤ (Basin.ofMem s.mem (tk 0)).base ∧ (Basin.ofMem s.mem (tk 0)).base ≤ 1100) ∧
    ¬ (Basin.ofMem (run (gs base [(1, near 0), (2, 1101#64)]) (.xclr false 1 2)).mem (tk 0)).base ≤ 1100) ∧
    [Fv.fin false 1 0, .nan].Perm [.nan, .fin false 1 0] := ⟨by decide +kernel, .swap _ _ _⟩
theorem wit_ScalarLoads : let s := gs (mapped base) [(1, near 8), (2, 0x200000#64)]
    s.scOk .plain ∧ s.relHeld .plain .core = false ∧ ({ s with remoteOps := [] }.modCur fun c => { c with scOpen := true }).scOk .sc ∧
    s.relHeld .sc .part = false ∧ s.reaches s.prodAg (Acc.load 8) (s.g 1 + (0#8).signExtend 64 * 8#64) (.mem (tk 8)) ∧
    s.onDevice s.me.part (.mem (tk 8)) = true ∧ s.placePoison (.mem (tk 8)) 8 = false ∧
    s.reaches s.prodAg (Acc.load 8) (s.g 2 + (0#8).signExtend 64 * 8#64) (.mem (hostKey (2 ^ 36))) ∧
    s.onDevice s.me.part (.mem (hostKey (2 ^ 36))) = false := by decide +kernel
theorem wit_VectorLoads : let s := gs base [(1, near 0), (2, 8#64)]
    isDeep s.cur.1 = false ∧ s.scOk .plain ∧ s.relHeld .plain .core = false ∧
    (∀ j, j < 24 → s.reaches s.prodAg (Acc.vload 64) (s.g 1 + BitVec.ofNat 64 (64 * j)) (.mem (tk (64 * j))) ∧
      s.onDevice s.me.part (.mem (tk (64 * j))) = true ∧ s.placePoison (.mem (tk (64 * j))) 64 = false) ∧
    (∀ j, j < 8 → s.reaches s.prodAg (Acc.vload 8) (s.g 1 + BitVec.ofNat 64 j * s.g 2) (.mem (tk (8 * j))) ∧
      s.reaches s.prodAg (Acc.vload 8) (s.g 1 + (BitVec.ofNat 64 (elem 64 (s.v 3) j)).signExtend 64) (.mem (tk 0))) := by
  decide +kernel
theorem wit_ScalarStores : let s := gs (mapped base) [(1, near 8), (2, 0x200000#64)]
    s.placeKey s.me.part (.mem (tk 8)) = some (tk 8) ∧ s.relHeld .plain .core = false ∧
    s.reaches s.ag (Acc.store 8) (s.g 1 + (0#8).signExtend 64 * 8#64) (.mem (tk 8)) ∧ s.leavesNow (.mem (tk 8)) = true ∧
    (let u := { s with portUp := [false, false] }
     u.reaches u.ag (Acc.store 8) (u.g 2 + (0#8).signExtend 64 * 8#64) (.mem (hostKey (2 ^ 36))) ∧
       isHostKey (hostKey (2 ^ 36)) = true ∧ u.portOf u.me.part = none) := by decide +kernel
theorem wit_VectorStores : let s := gs base [(1, near 0), (2, 4#64)]
    isDeep s.cur.1 = false ∧ s.scOk .plain ∧ s.relHeld .plain .core = false ∧
    (∀ j, j < 24 → s.reaches s.ag (Acc.vstore 64) (s.g 1 + BitVec.ofNat 64 (64 * j)) (.mem (tk (64 * j))) ∧ isHostKey (tk (64 * j)) = false) ∧
    (∀ j, j < 16 → s.reaches s.ag (Acc.vstore 4) (s.g 1 + BitVec.ofNat 64 j * s.g 2) (.mem (tk (4 * j)))) := by decide +kernel
/-- `mapped` with page 17 of device memory in a code range, and a page 64 of a remote package. -/
def guarded : State :=
  let s := ((base.pfSet (rwOff 0 0) 0x0000000700000503#64).pfSet (rwOff 0 0 + 8) 0x0000000010000000#64).pfSet (rwOff 0 0 + 16) 1#64
  (pt (mapped s) fun p => { p with ranges := p.ranges.map fun r => { r with pages := [17] } }).modBulk 0 fun b =>
    { b with tlb := b.tlb ++
      [{ tag := 0, pasid := 0, vpage := 64, pages := 1, ppage := s.bar4 / 65536, win := none, r := true, w := true }] }
theorem wit_AccessFaults : let s := guarded
    let g := s.ag
    let fe : Acc := { Acc.load 8 with fe := true }
    let bi := s.modBulk 0 fun b => { b with refused := [{ holder := g.holder, write := false, pasid := 0, vpage := 200, code := 0x13, detail := 7#64 }] }
    let page := s.modBulk 0 fun b => { b with reqs :=
      [{ pasid := 0, vpage := 201, write := true, st := 1, stale := false, holders := [], asked := [], port := 0 }] }
    let bad (k : Nat) : State := s.modMem fun m => m.setPoison (k / 64) true
    canonical 0x0200000000000000#64 = false ∧ (canonical (near 8) = true ∧ nearAlias (near 8) = true ∧ isDeep deep.cur.1 = true) ∧
    -- raw and not usable: the end of the grain map, a flat cluster of 6N, the gap above the near alias; usable and misaligned
    (canonical 0xfffd000000010000#64 = true ∧ 65536 * (s.part 0).n = 65536) ∧
    (canonical 0xfffe000003000000#64 = true ∧ 6 * (s.part 0).n = 0x3000000 / 2 ^ 23) ∧
    (canonical 0xffff000000400000#64 = true ∧ nearAlias 0xffff000000400000#64 = false) ∧ (near 4).toNat % 8 ≠ 0 ∧
    (canonical 0x100004#64 = true ∧ (0x100004#64).toNat % (Acc.load 8).align ≠ 0) ∧
    (((bi.bulk 0).refused.find? fun r => r.holder = g.holder && r.pasid == bi.pasid 0 0 && r.vpage == (0xc80000#64).toNat / 65536 &&
      (false || !r.write)).map fun r => r.code) = some 0x13 ∧
    ((page.bulk 0).refused = [] ∧ (page.part 0).tagOf (page.pasid 0 0) ≠ none ∧ (page.bulk 0).lookup 0 201 false = none ∧
      ((page.bulk 0).reqs.find? fun q => q.serves (page.pasid 0 0) 201 false).map (fun q => q.st) = some 1 ∧
      (page.access page.prodAg (Acc.load 8) 0xc90000#64).1 = .page ∧ (page.access page.ag (Acc.store 8) 0xc90000#64).1 = .page) ∧
    ((s.locate g fe 0x200000#64).1 = .ok (.mem (hostKey (2 ^ 36))) ∧ keyHasFe (hostKey (2 ^ 36)) = false) ∧
    (s.locate g fe 0x400000#64).1 = .ok (.remote 0 0) ∧
    ((s.locate g (Acc.store 8) 0x110000#64).1 = .ok (.mem 0x110000) ∧ s.sealed 0x110000 = true) ∧
    (let l : List Word := [near 0]
     (s.places g (Acc.vload 8) l 0).1 = [.mem (tk 0)] ∧ (s.places g (Acc.vload 8) l 0).2.1 = none ∧
       (((s.places g (Acc.vload 8) l 0).2.2).access g (Acc.vload 8) (near 4)).1 = .fault 0x0a 0#64) ∧
    -- the second part, where the access of a form fails, or its word is poisoned
    (s.scOk .plain ∧ s.relHeld .plain .core = false ∧ (bad 0x1000).mem.poisoned 0x1000 8 = true) ∧
    (let u := bad (tk 8)
     (u.access u.prodAg (Acc.load 8) (near 8)).1 = .ok (.mem (tk 8)) ∧ (u.access u.prodAg (Acc.atomic 8) (near 8)).1 = .ok (.mem (tk 8)) ∧
       (u.access u.ag fe (near 8)).1 = .ok (.mem (tk 8)) ∧ u.placePoison (.mem (tk 8)) 8 = true ∧ u.onDevice 0 (.mem (tk 8)) = true ∧
       (u.placeKey 0 (.mem (tk 8))).isSome = true ∧ (Place.mem (tk 8)).linked = false) ∧
    ((s.access s.prodAg (Acc.load 8) 0xffff000000400000#64).1 = .fault 0x16 0#64 ∧
      (s.access s.ag (Acc.store 8) 0x110000#64).1 = .fault 0x08 0#64) ∧
    (let u := bad (tk 64)
     let l : List Word := [near 0, near 64]
     isDeep u.cur.1 = false ∧ (u.places u.prodAg (Acc.vload 64) l 0).1 = [.mem (tk 0), .mem (tk 64)] ∧
       (u.places u.prodAg (Acc.vload 64) l 0).2.1 = none ∧
       [Place.mem (tk 0), .mem (tk 64)].findIdx? (fun pl => u.placePoison pl 64) = some 1) ∧
    ((s.places s.prodAg (Acc.vload 64) [near 0, 0xffff000000400000#64] 0).2.1 = some (1, 0xffff000000400000#64, .fault 0x16 0#64) ∧
      (s.places s.ag (Acc.vstore 64) [near 0, 0xffff000000400000#64] 0).2.1 = some (1, 0xffff000000400000#64, .fault 0x16 0#64)) := by
  and_intros <;> decide +kernel
theorem wit_FullEmptyAccesses : let s := gs base [(1, near 0)]
    let u := run s (.ldfe .plain .core 2 1 0)
    s.mem.full (tk 0) = true ∧ u.mem.full (tk 0) = false ∧ s.mem.poisoned (tk 0) 8 = false ∧ isHostKey (tk 0) = false ∧ tk 0 % 8 = 0 ∧
    s.reaches s.ag { Acc.load 8 with fe := true } (s.g 1 + (0#8).signExtend 64 * 8#64) (.mem (tk 0)) ∧
    u.reaches u.ag { Acc.load 8 with write := true, fe := true } (u.g 1 + (0#8).signExtend 64 * 8#64) (.mem (tk 0)) ∧
    u.reaches u.ag { Acc.load 8 with fe := true } (u.g 1 + (0#8).signExtend 64 * 8#64) (.mem (tk 0)) ∧
    s.scOk .plain ∧ s.relHeld .plain .core = false := by decide +kernel
theorem wit_AtomicResults : let s := gs (mapped base) [(1, near 8), (2, 0x200000#64)]
    s.reaches s.prodAg (Acc.atomic 8) (s.g 1) (.mem (tk 8)) ∧ s.placePoison (.mem (tk 8)) 8 = false ∧
    s.reaches s.prodAg (Acc.atomic 8) (s.g 2) (.mem (hostKey (2 ^ 36))) ∧ s.cxl s.me.part = false ∧ s.cc.regs.env.getLsbD 8 = false ∧
    (run (gs s [(3, 0x100#64)]) (.feset 3)).cc.regs.env.getLsbD 8 = true ∧ s.scOk .plain ∧ s.relHeld .plain .core = false ∧
    (s.portOf s.me.part).isSome = true ∧
    (let u := { s with portCxl := [true, true] }
     u.cxl u.me.part = true ∧ u.hostOwned u.me.part (hostKey (2 ^ 36)) = false ∧
       u.reaches u.prodAg (Acc.atomic 8) (u.g 2) (.mem (hostKey (2 ^ 36)))) := by decide +kernel
theorem wit_FencesAndHints : let s := gs base [(1, near 8)]
    s.cc.inflight.any Producer.unfixed = false ∧ s.relHeld .sc .sys = false ∧ s.reaches s.ag Acc.probe (s.g 1) (.mem (tk 8)) := by
  decide +kernel
/-- A nest block of extents 2, 3, 4 for four claimants. -/
def nested : State :=
  run (es (gs base [(1, near 0)]) [(0, 0x0000000300000002#64), (1, 0x0000000400000004#64), (2, 0x0000000800000001#64)]) (.nest 2 1)
theorem wit_NestAndIteration : let s := gs (mapped base) [(1, near 0), (2, 0x200000#64)]
    s.reaches s.ag (Acc.vstore 64) (s.g 1) (.mem (tk 0)) ∧ homeKey (.mem (tk 0)) = some (tk 0) ∧ bitsOf (s.e 0) 0 32 = 0 ∧
    s.reaches s.ag (Acc.vstore 64) (s.g 2) (.mem (hostKey (2 ^ 36))) ∧ homeKey (.mem (hostKey (2 ^ 36))) = none ∧
    s.reaches s.ag { Acc.atomic 64 with vec := true } (s.g 1) (.mem (tk 0)) ∧ (Nest.ofMem s.mem (tk 0)).valid = false ∧
    s.placePoison (.mem (tk 0)) 64 = false ∧
    (let B := Nest.ofMem nested.mem (tk 0)
     nested.g 2 = 0#64 ∧ B.valid = true ∧ B.clean = true ∧ B.next < B.total ∧ B.total = 24 ∧ 0 < B.e0 ∧ 0 < B.e1 ∧ 0 < B.p ∧ B.f < 8) ∧
    (let C := Nest.ofMem ((List.replicate 24 (Instr.iter 3 1)).foldl run nested).mem (tk 0)
     C.valid = true ∧ C.clean = true ∧ C.total ≤ C.next) := by decide +kernel
/-- The coordinates of ITER.step at (1, 2, 0) of extents (2, 3, 4), and without the last, or the last two. -/
theorem wit_IterStep : let c (x y : Nat) : State := base.modCur fun c => c.modRegs fun r =>
      ((r.setI 0 (BitVec.ofNat 64 (2 * 2 ^ 32 + x))).setI 1 (BitVec.ofNat 64 (3 * 2 ^ 32 + y))).setI 2 (BitVec.ofNat 64 (4 * 2 ^ 32))
    let x (s : State) (n : Nat) : Nat := bitsOf (s.cc.regs.getI n) 0 32
    let e (s : State) (n : Nat) : Nat := bitsOf (s.cc.regs.getI n) 32 32
    ((x (c 0 0) 0 + 1) % 2 ^ 32 ≠ e (c 0 0) 0) ∧ ((x (c 1 0) 0 + 1) % 2 ^ 32 = e (c 1 0) 0 ∧ (x (c 1 0) 1 + 1) % 2 ^ 32 ≠ e (c 1 0) 1) ∧
    ((x (c 1 2) 0 + 1) % 2 ^ 32 = e (c 1 2) 0 ∧ (x (c 1 2) 1 + 1) % 2 ^ 32 = e (c 1 2) 1) := by decide +kernel

/-- An engine command with these registers, of the thread of `base`. -/
def cmd (fn : Nat) (matrix : Bool) (e : FMap Word) : ECmd :=
  { base.newCmd matrix fn 0 { acq := false, rel := false, scope := .core, dec := false } with e := e }
def un (s : State) (f : Clus → Clus) : State := s.modUnit 0 f
/-- Tile 3 stopped by a fault, with and without a saved drain; tile 4 locked. -/
def tiles (saved : Bool) : State := un base fun u =>
  { u with
    stat := [(3, { lock := false, fault := true, crow := 5, cblk := 1, prog := 9 }), (4, { TileStat.empty with lock := true })]
    saved := if saved then [(3, { cmd 4 true [] with tile := 3 })] else [] }
theorem wit_TileInstructions : isDeep base.cur.1 = false ∧ ((base.unit 0).tile 3).fault = false ∧ (((tiles false).unit 0).tile 3).fault = true ∧
    (∀ y ∈ ((tiles false).unit 0).saved, y.1 ≠ 3) ∧
    (((tiles true).unit 0).saved.find? fun y => y.1 == 3) = some (3, { cmd 4 true [] with tile := 3 }) ∧
    (base.unit 0).accBlocked 4 = false ∧ ((tiles false).unit 0).accBlocked 4 = true := by decide +kernel
theorem wit_MatrixIssue : isDeep base.cur.1 = false ∧ (base.unit 0).mqRoom = true ∧
    (let r3 (fa fb : Nat) : FMap Word := [(3, BitVec.ofNat 64 (fa * 2 ^ 17 + fb * 2 ^ 21))]
     (cmd 0 true (r3 9 0)).matrixStatus = 1 ∧ (cmd 1 true (r3 7 0)).matrixStatus = 2 ∧
     (cmd 0 true [(0, 1#64)]).status3 = true ∧ (cmd 0 true [(0, 1#64)]).matrixStatus = 3) ∧
    (cmd 4 true [(4, 1#64)]).matrixStatus = 4 ∧ canonical ((cmd 2 true [(5, 1#64)]).reg 5) = true ∧
    ((cmd 2 true [(5, 1#64)]).reg 5).toNat % 8 ≠ 0 ∧ ({ cmd 8 true [] with slot := 64 }).matrixStatus = 8 := by decide +kernel
theorem wit_CopyIssue : base.outRoom 0 = true ∧ deep.outRoom (coreUnit deep.cur.1) = true ∧ isDeep deep.cur.1 = true ∧
    (∀ r ∈ [0, 1, 5], nearAlias (deep.e r) = false) ∧
    (let s := es deep [(1, near 0)]
     [0, 1, 5] = [0] ++ 1 :: ([0, 1, 5].drop 2) ∧ nearAlias (s.e 0) = false ∧ nearAlias (s.e 1) = true) := by decide +kernel
/-- A gate whose parked FILL is good, on a counter that reads zero. -/
def gated0 : State := es (gs base [(1, near 8), (2, 0x6#64)]) [(1, 0x100000#64), (2, 64#64), (3, 1#64), (5, near 64)]
theorem wit_GateResults : let s := gated0
    (s.unit 0).gates.length < 32 ∧ s.parked 0x4000#64 = none ∧ ((s.parked (s.g 2)).map ECmd.status) = some 0 ∧
    canonical (s.g 1) = true ∧ (s.g 1).toNat % 8 = 0 ∧ (near 4).toNat % 8 ≠ 0 ∧
    (s.locate s.ag (Acc.load 8) (s.g 1)).1 = .ok (.mem (tk 8)) ∧ homeKey (.mem (tk 8)) = some (tk 8) ∧
    (s.recordWatcher (keyBulk (tk 8)) (tk 8 / 64) (.gate 0 0)) ≠ none ∧
    ((es s [(5, 1#64)]).parked (s.g 2)).map ECmd.status ≠ some 0 ∧
    (let u := gs (mapped s) [(1, 0x200000#64)]
     ∃ pl, (u.locate u.ag (Acc.load 8) (u.g 1)).1 = .ok pl ∧ homeKey pl = none) ∧
    (let u := s.modBulk 0 fun b => { b with watchTab := List.replicate 16384 (0, .thread 0 0) }
     u.recordWatcher (keyBulk (tk 8)) (tk 8 / 64) (.gate 0 0) = none) := by
  and_intros <;> first | decide +kernel | exact ⟨.mem (hostKey (2 ^ 36)), by decide +kernel⟩
/-- A write of partition 0 to a remote package, sent or not. -/
def writing (s : State) (sent : Bool) : State :=
  let o : HostOp :=
    { id := 3, part := 0, vf := 0, key := 2 ^ 66, write := true, atomic := false, core := 0, ctx := 1, pc := 0, sent := sent, since := 0,
      data := [1#8], win := 0, dpa := 0, tid := 0x100#32, port := 0, poison := false, holder := none, pasid := 0, own := false,
      dec := false, ans := .pending, newer := [] }
  { s with remoteOps := [o], opSeq := 4 }
/-- Watches of the tarn lines of these offsets. -/
def watched (l : List Nat) : State := l.foldl (fun s o => run (gs s [(1, near o)]) (.watch 2 1)) base
theorem wit_WatchAndUnwatch : let s := gs base [(1, near 0)]
    let armed (s : State) (l : List Nat) : Bool := (s.watchesOf s.tid).map (fun w => w.line) == l
    (s.locate s.ag Acc.probe (s.g 1)).1 = .ok (.mem (tk 0)) ∧ s.watchLine 0 (.mem (tk 0)) = some (tk 0 / 64, 0) ∧
    s.watchBusy 0 (.mem (tk 0)) = false ∧ (s.modBulk 0 fun b => { b with bisnp := [(0x4000, 1)] }).watchBusy 0 (.mem 0x100000) = true ∧
    (let u := gs (two base) [(1, 0x300000#64)]
     (u.locate u.ag Acc.probe (u.g 1)).1 = .ok (.window 1 0) ∧ u.watchLine 0 (.window 1 0) = none ∧
     (u.locate { u.ag with holder := .unwatch 0 1 } Acc.probe (u.g 1)).1 = .ok (.window 1 0)) ∧ (s.locate s.ag Acc.probe 0xfffd000000000000#64).1 = .fault 0x16 0#64 ∧
    armed (watched []) [] = true ∧ armed (watched [0]) [tk 0 / 64] = true ∧
    armed (watched [0, 64, 128, 192]) [tk 0 / 64, tk 64 / 64, tk 128 / 64, tk 192 / 64] = true ∧
    (let u := s.modCore 0 fun c => { c with watches := List.replicate 1024 { tid := 7#32, num := 0, line := 0, coarse := false, home := 0 } }
     1024 ≤ (u.core (tidCore u.tid)).watches.length ∧ (u.watchesOf u.tid) = []) ∧
    (let u := { s.ag with holder := .unwatch 0 1 }
     (s.locate u Acc.probe (s.g 1)).1 = .ok (.mem (tk 0)) ∧ (s.locate u Acc.probe 0xfffc000000000000#64).1 = .fault 0x16 0#64) := by
  decide +kernel
/-- Group 5 of two members, joined by cluster 0; after its first and last asks. -/
def joined : State :=
  run (es (gs base [(1, 5#64)]) [(0, 0#64), (1, 64#64), (2, 0x0000000100000002#64), (3, near 64)]) (.gjoin 2 1)
def asked : State := run (es (gs joined [(3, 0#64)]) [(0, 0x100000#64), (1, 64#64)]) (.gload 2 1 3)
theorem wit_GroupInstructions : isDeep base.cur.1 = false ∧ (base.grp 0 5).valid = false ∧
    (let E := joined.grp 0 5
     joined.g 2 = 0#64 ∧ E.valid = true ∧ E.m = 2 ∧ E.j = 1 ∧ E.members = [0] ∧ E.size = 64 ∧ E.l = 0xffffffff#32 ∧ E.asked = [] ∧
     (joined.mems 0 5).find? (fun x => x.tid == joined.tid) ≠ none ∧ (joined.mems 0 5).find? (fun x => x.tid == 9#32) = none) ∧
    (let u := { asked.setGrp 0 5 { asked.grp 0 5 with deadline := 3 } with ts := 4 }
     (u.grp 0 5).valid = true ∧ (u.grp 0 5).p = true ∧ (u.grp 0 5).deadline < u.tsOf 0 ∧ (u.startFill 0 5 true).me = u.me) ∧
    (asked.g 2 = 0#64 ∧ (asked.grp 0 5).asked = [0] ∧ (asked.grp 0 5).a + 1 = (asked.grp 0 5).m ∧ (asked.grp 0 5).p = true) ∧
    ((0#64).setWidth 32 - 0xffffffff#32).toNat = 1 ∧ ((0xffffffff#64).setWidth 32 - 0xffffffff#32).toNat = 0 ∧
    ((1#64).setWidth 32 - 0xffffffff#32).toNat = 2 ∧ 2 ^ 31 < ((0xfffffffe#64).setWidth 32 - 0xffffffff#32).toNat := by decide +kernel

/-- 64-bit words in the own tarn from offset o. -/
def words (s : State) (o : Nat) (l : List Word) : State := s.modMem fun m => m.setBytes (tk o) (l.flatMap fun w => leBytes 8 w.toNat)
/-- Every right in a KIND 4 entry for the thread of `base`. -/
def lord (s : State) : State := pt s fun p => { p with auth := [(16, mkAuth 4 0xff 0)] }
/-- Another thread, 0x200, in slot 2 of core 0. -/
def other (s : State) (st : TState) : State := s.setSlot 0 2 { Rec.empty with tid := 0x200#32, state := st, table := 1#10 }
/-- The thread of `base` as core 0's steward. -/
def steward : State :=
  ((base.modCtx 0 0 fun _ => { base.cc with tid := 0#32 }).setSlot 0 0
    { base.me with tid := 0#32, place := some (0, 0) }).modCtx 0 1 fun _ => Ctx.empty
def asSteward : State := { steward with cur := (0, 0) }
/-- A load from host memory is on its way. -/
def loading : State := run (gs (mapped base) [(1, 0x200000#64)]) (.ld .d .plain .core 2 1 0)
theorem wit_SuspensionResults : let s := base
    s.resident s.tid = true ∧ s.findRec s.tid = some s.me ∧ s.cc.inflight = [] ∧ s.me.pending = 0#4 ∧
    (me s fun r => { r with pending := 8#4 }).me.pending ≠ 0#4 ∧ s.tsOf 0 = 0 ∧ tidSlot s.tid ≠ 0 ∧ s.queued 0 0 = false ∧
    ((other s .ready).joinQueue 0x200#32).queued 0 0 = true ∧ tidSlot asSteward.tid = 0 ∧
    asSteward.findRec asSteward.tid = some asSteward.me ∧ asSteward.resident asSteward.tid = true ∧
    loading.cc.inflight ≠ [] ∧ tidSlot loading.tid ≠ 0 ∧ s.writesOut 0 .part = false ∧ (writing s false).writesOut 0 .part = true ∧
    tidSlot (writing s false).tid ≠ 0 := by decide +kernel
theorem wit_EndAndWakeResults : let s := base
    tidSlot asSteward.tid = 0 ∧ tidSlot s.tid ≠ 0 ∧ s.resident s.tid = true ∧ s.findRec s.tid = some s.me ∧ s.cc.inflight = [] ∧
    s.writesOut 0 .part = false ∧ (∀ r ∈ (s.bulk (tidBulk s.tid)).shallows, r.tid ≠ s.tid) ∧ (∀ g, g < 64 → s.mems 0 g = []) ∧
    (s.part 0).bulks.contains (tidBulk 0x00200000#32) = false ∧ (s.part 0).bulks.contains (tidBulk 0x200#32) = true ∧
    s.findRec 0x200#32 = none ∧ ((other s .sleeping).findRec 0x200#32).map (fun r => r.state) = some .sleeping ∧
    ((other s .ready).findRec 0x200#32).map (fun r => r.state) = some .ready := by decide +kernel
/-- A spawn block: PC 0x40, own home core, table 1; with an odd PC; with home core 24 of 24. -/
def spawnAt (pc home : Word) : State := gs (words base 0 [pc, 0#64, 0#64, home <<< 16 ||| 1#64]) [(1, near 0)]
theorem wit_SpawnResults : let s := lord (spawnAt 0x40#64 0xffff#64)
    let bs (s : State) : List Byte := s.readPlace 0 (.mem (tk 0)) 64
    s.reaches s.ag (Acc.load 64) (s.g 1) (.mem (tk 0)) ∧ (Place.mem (tk 0)).linked = false ∧ s.placePoison (.mem (tk 0)) 64 = false ∧
    (spawnAt 0x40#64 24#64).spawnCore (bs (spawnAt 0x40#64 24#64)) = none ∧ s.spawnCore (bs s) = some 0 ∧
    s.spawnAllowed 0 1 = true ∧ (spawnAt 0x40#64 0xffff#64).spawnAllowed 0 1 = false ∧ s.spawnBad (bs s) = false ∧
    s.spawnBad (bs (spawnAt 0x41#64 0xffff#64)) = true ∧ s.freeSlot 0 ≠ none ∧
    (let u := (s.modCore 0 fun c => { c with slots := (List.range 256).map fun i => (i, { Rec.empty with state := .ready }) }).modBulk 0
        fun b => { b with shallows := List.replicate 8192 Rec.empty }
     u.freeSlot 0 = none ∧ u.shallowRoom 0 = false) := by decide +kernel
/-- Two threads of one launch with one coordinate, in core 0 and core 1; the current one in core 1, at ONCE and RDTS g4. -/
def once : State :=
  let s := me base fun r => { r with launchId := some 0 }
  let t := mkTid 1 1 0#8
  let s := s.setSlot 1 1 { s.me with tid := t, place := some (1, 1) }
  let s := { s.modCtx 1 1 fun _ => { s.cc with tid := t } with cur := (1, 1) }
  s.modMem fun m => m.setBytes 0 (leBytes 2 0x12 ++ leBytes 4 (0b000000_0010_00000_00000_00100_010100_1#32).toNat)
theorem wit_OnceAndYieldG : isDeep once.cur.1 = false ∧ once.cc.wait ≠ .oncePost ∧ (once.onceFollower 1 1).1 = 4 ∧
    once.onceElected 1 1 ≠ 1 ∧ base.onceElected 0 1 = 0 ∧ (base.onceFollower 0 1).1 = 0 ∧ (∀ p ∈ once.cc.posts, p.q ≠ 1#8) ∧
    (once.cc.posts ++ [{ reg := 4, vec := false, value := 9, q := 1#8, src := none : Post }]).find? (fun p => p.q == 1#8) ≠ none ∧
    once.cc.gFull 4 = true ∧ (base.part 0).switch = none ∧
    (let w : Switch := { vf := 1, at_ := 5, coop := true, line := 0, callerVf := 0, bulk := 0, outgoing := none, savedAt := 0, arrived := 0,
                         forced := 0, begun := none, halted := false, saved := false }
     let s := pt base fun p => { p with switch := some w }
     (s.part 0).switch = some w ∧ w.coop = true ∧ w.begun = none ∧ s.vfRuns 0 0 = true ∧ s.cur.2 ≠ 0) := by decide +kernel
/-- An inbox at tarn offset 0 with ring and mere at 0x1000 and 0x2000, each of four entries, and these counters. -/
def inbox (s : State) (rh mh rt mt : Nat) : State :=
  me (words s 0 [near 0x1000, 0x22#64, BitVec.ofNat 64 (rh + mh * 2 ^ 32), BitVec.ofNat 64 (rt + mt * 2 ^ 32), near 0x2000]) fun r =>
    { r with inbox := near 0 }
def boxOf (s : State) : Option (Nat × Nat × Nat) := match (s.inboxOf s.me).1 with | .ok k x => some (k, x.ring, x.mere) | _ => none
theorem wit_MessageInstructions : let s := gs base [(1, near 64), (3, 0x00200000#64)]
    s.sendable 0x00200000#32 = false ∧ s.sendable s.tid = true ∧ ((s.core 0).sendBuf.filter fun e => !e.extra).length < 64 ∧
    s.reaches s.ag (Acc.vstore 64) (s.g 1) (.mem (tk 64)) ∧ s.me.inbox = 0#64 ∧ (inbox s 0 0 0 0).me.inbox ≠ 0#64 ∧ tk 0 + 64 ≤ 2 ^ 64 ∧
    boxOf (inbox s 0 0 0 0) = some (tk 0, 0, 0) ∧ boxOf (inbox s 1 0 (2 ^ 32 - 1) 0) = some (tk 0, 2, 0) ∧
    boxOf (inbox s 3 4 3 0) = some (tk 0, 0, 4) ∧
    ((inbox s 1 0 0 0).homeOf s.me.inboxAgent (near 0x1000)).1 = some (tk 0x1000) := by decide +kernel
theorem wit_TargetChecksAndStops : let s := lord (other base .ready)
    let bad (x : Word) : Bool := targetBad x
    bad (2 ^ 32) = true ∧ bad (2 ^ 27) = true ∧ bad (2 ^ 31 + 1) = true ∧ bad 0x200#64 = false ∧
    (s.part 0).bulks.contains (tidBulk 0x200#32) = true ∧ (s.part 0).bulks.contains (tidBulk 0x00200000#32) = false ∧
    s.holds 0 0x200#32 = true ∧ (other base .ready).holds 0 0x200#32 = false ∧ s.target 0x300#64 = none ∧
    (s.target 0x200#64).map (fun r => r.tid) = some 0x200#32 ∧ (s.target 0x100#64).map (fun r => r.tid) = some s.tid ∧
    s.findRec 0x200#32 = some (s.slotRec 0 2) ∧ s.resident 0x200#32 = true ∧ (s.slotRec 0 2).save = false ∧
    s.cc.begun = false ∧ [rWRITE, rGRANT].find? (fun x => !(other base .ready).holds x 0x200#32) = some rWRITE ∧
    ({ s.cc with begun := true }).begun = true ∧ s.writesOut 0 .part = false ∧ (writing s false).writesOut 0 .part = true ∧
    ((writing s false).target 0x200#64).map (fun r => (r.state, r.save)) = some (.ready, false) ∧
    (let u := ((other s .bound).modRec 0x200#32 fun r => { r with place := some (0, 2) }).modCtx 0 2 fun _ =>
        { Ctx.empty with bound := true, tid := 0x200#32 }
     let r := u.slotRec 0 2
     u.holds 0 0x200#32 = true ∧ r.state = .bound ∧ r.saved = false ∧ r.place = some (0, 2) ∧ (0, 2) ≠ u.cur ∧ (u.ctx 0 2).tid = r.tid ∧
       (u.ctx 0 2).inflight = [] ∧ (u.ctx 0 2).stop = none ∧ (u.ctx 0 2).susp = none ∧ (u.ctx 0 2).wait = .none_) ∧
    ((other s .stopped).slotRec 0 2).state = .stopped := by decide +kernel
theorem wit_ReadAndCounterResults : let s := gs (lord (other base .ready)) [(1, 0x200#64), (2, near 0)]
    targetBad (s.g 1) = false ∧ s.holds rREAD 0x200#32 = true ∧ (s.target (s.g 1)).isSome = true ∧
    (∀ j, j < 16 → s.reaches s.ag (Acc.vstore 64) (s.g 2 + BitVec.ofNat 64 (64 * j)) (.mem (tk (64 * j))) ∧ isHostKey (tk (64 * j)) = false) ∧
    s.me.table.toNat = 1 ∧ s.holdsAll rGRANT = true ∧ base.holdsAll rGRANT = false ∧ base.cc.begun = false ∧ 0 ∈ (s.part 0).bulks ∧ 1 ∉ (s.part 0).bulks ∧
    (s.myTable.any fun x => grants x rREAD && coversBulk x 0) = true ∧
    s.holdsCore rREAD = true ∧ s.holdsCore rWRITE = true ∧ base.holdsCore rREAD = false ∧ base.holdsCore rWRITE = false ∧
    bitsOf (17#64) 0 8 = 17 ∧ bitsOf (17#64) 8 8 = 0 ∧ bitsOf (17#64) 32 31 = 0 ∧ bitsOf (18#64) 0 8 = 18 := by decide +kernel
theorem wit_WriteReapStat : let s := gs (lord (other base .stopped)) [(1, 0x200#64), (2, near 0)]
    let r := s.slotRec 0 2
    targetBad (s.g 1) = false ∧ s.holds rWRITE 0x200#32 = true ∧ s.target (s.g 1) = some r ∧ s.findRec r.tid = some r ∧
    s.resident r.tid = true ∧ r.tid ≠ s.tid ∧ s.reaches s.ag (Acc.load 64) (s.g 2) (.mem (tk 0)) ∧ s.holds rGRANT r.tid = true ∧ (Place.mem (tk 0)).linked = false ∧
    s.placePoison (.mem (tk 0)) 64 = false ∧ s.placePoison (.mem (tk 0)) 16 = false ∧
    r.state ≠ .bound ∧ r.twriteBad 31 (s.readPlace 0 (.mem (tk 0)) 64) = false ∧
    r.twriteBad 1 ((words s 0 [1#64]).readPlace 0 (.mem (tk 0)) 64) = true ∧ ((other s .bound).slotRec 0 2).state = .bound ∧
    s.reaches s.ag (Acc.load 16) (s.g 2) (.mem (tk 0)) ∧ (s.part 0).authBad 0#128 = false ∧ bitsOf (s.g 1) 10 6 = 0 ∧
    bitsOf (s.g 1) 20 44 = 0 ∧ s.holdsAll rGRANT = true ∧ authRights 0#128 &&& s.grantable = authRights 0#128 ∧
    s.holds rREAP r.tid = true ∧ tidSlot r.tid ≠ 0 ∧ (steward.findRec 0#32).map (fun r => tidSlot r.tid) = some 0 ∧
    (∀ q ∈ (s.bulk 0).shallows, q.tid ≠ r.tid) ∧ (∀ g, g < 64 → s.mems 0 g = []) ∧ s.holds rREAD r.tid = true ∧ s.armed r.tid < 8 ∧
    r.vf < 256 ∧ s.coreField 0 ((r.place.getD (0, 0)).1) < 65536 := by decide +kernel
/-- The service ring at DPA 0x3000 of the descriptor at DPA 0x2000, of four entries with n in it. -/
def ring (n : Nat) : State :=
  gs ((base.setDesc 0 0x78 0x2000#64).modMem fun m => m.setBytes (devKey 0 0x2000)
    ([0x3000, 2, n, 0].flatMap fun (w : Nat) => leBytes 8 w)) [(1, 7#64), (2, near 64)]
theorem wit_ServiceCalls : let s := ring 3
    let x := s.svcDesc 0
    (s.locate s.ag Acc.wprobe (s.g 2)).1 = .ok (.mem (tk 64)) ∧ (s.part 0).notices = [] ∧ x.bad = false ∧
    (x.head + 2 ^ 32 - x.tail) % 2 ^ 32 = 3 ∧ ((ring 4).svcDesc 0).full = true ∧ ¬(0xfffd < (s.g 1).toNat) ∧ (s.g 2).toNat % 64 = 0 ∧
    homeKey (.mem (tk 64)) ≠ none ∧ s.watchesOf s.tid = [] ∧ 4 ≤ ((watched [0, 64, 128, 192]).watchesOf s.tid).length ∧
    (let l := s.locate s.ag Acc.wprobe (s.g 2); (l.2.checkPlace l.2.ag (Acc.store 8) (.mem (tk 64))).1 = .ok (.mem (tk 64))) ∧
    tk 64 % 64 = 0 ∧ isHostKey (tk 64) = false ∧ s.areaKey 0 0x78 = 0x2000 ∧ s.svcEntry 0 x x.head = 0x30c0 ∧
    s.resident s.tid = true ∧ s.findRec s.tid = some s.me ∧ s.cc.inflight = [] ∧ s.writesOut 0 .part = false := by decide +kernel
/-- VF 1 of the partition enabled and resident; a switch to it at TS 0x200 wanted. -/
def vf1 : State := es (gs (lord (base.pfSet (vfOff 0 1) 7#64)) [(1, 0x200#64), (2, near 64)]) [(0, 1#64)]
def pending : State := run vf1 (.preempt 3 1 2)
theorem wit_PreemptResults : let s := vf1
    s.holdsAll rPREEMPT = true ∧ base.holdsAll rPREEMPT = false ∧ canonical (s.g 2) = true ∧ (s.g 2).toNat % 64 = 0 ∧
    (near 65).toNat % 64 ≠ 0 ∧ (s.e 0).toNat / 512 = 0 ∧ (0x200#64).toNat / 512 ≠ 0 ∧ (s.part 0).switch = none ∧
    (s.part 0).owns 1 = true ∧ (s.vfEntry 0 1).getLsbD 0 = true ∧ (s.vfEntry 0 1).getLsbD 1 = true ∧ (s.vfEntry 0 2).getLsbD 0 = false ∧
    (s.part 0).running = some 0 ∧ s.tsOf 0 + 256 ≤ (s.g 1).toNat ∧ (s.g 1).toNat ≤ s.tsOf 0 + 2 ^ 40 ∧ (0xff#64).toNat < s.tsOf 0 + 256 ∧
    (match (pending.part 0).switch with
     | none => false
     | some w => w.begun == none && decide (pending.tsOf 0 < w.at_) && decide (({ pending with ts := 0x200 }).tsOf 0 = w.at_) &&
        (pending.access (w.agent 0 (.ctx 0 1)) (Acc.store 8) w.line).1 == .ok (.mem (tk 64))) = true ∧
    isHostKey (tk 64) = false ∧ isHostKey (tk 64 + 63) = false ∧ pending.writesOut 0 .sys = false ∧
    (writing pending true).writesOut 0 .sys = true ∧
    (let u := gs (lord deep) [(2, near 64)]; isDeep u.cur.1 = true ∧ u.holdsAll rPREEMPT = true ∧ nearAlias (u.g 2) = true) ∧
    (s.access s.ag (Acc.store 8) 0xfffc000000000000#64).1 = .fault 0x16 0#64 := by decide +kernel
theorem wit_CodemapAndXlinv : let s := gs (lord base) [(1, near 0), (2, 0x10000#64)]
    s.holdsAll rWRITE = true ∧ base.holdsAll rWRITE = false ∧ canonical (s.g 1) = true ∧ (s.g 1).toNat % 64 = 0 ∧
    (near 1).toNat % 64 ≠ 0 ∧ (s.locate s.ag (Acc.store 64) (s.g 1)).1 = .ok (.mem (tk 0)) ∧ (s.part 0).scan = none ∧
    ((s.part 0).ranges.find? fun r => r.pasid == 0 && r.base == 0).map (fun r => r.boot) = some true ∧
    ((s.part 0).ranges.find? fun r => r.pasid == 0 && r.base == (s.g 2).toNat) = none ∧
    (let u := run (es s [(0, 0x10000#64)]) (.codemap 3 1)
     ((u.part 0).scan.map fun c => (c.pasid, c.base)) = some (0, (s.g 2).toNat)) ∧
    (let u := pt s fun p => { p with ranges := p.ranges.map fun r => { r with boot := false } }
     ((u.part 0).ranges.find? fun r => r.pasid == 0 && r.base == 0).map (fun r => r.boot) = some false) ∧
    s.deepAlias [s.g 1, s.e 0, s.e 2] = none ∧
    (let u := es (lord deep) [(2, near 64)]; u.holdsAll rWRITE = true ∧ u.deepAlias [u.g 1, u.e 0, u.e 2] = some (near 64)) ∧
    (let u := loading.modCur fun c => { c with wait := .drain loading.opSeq }
     u.cc.wait = .drain u.opSeq ∧ u.drained 0 (· == 0) u.opSeq = false ∧ ({ u with hostOps := [] }).drained 0 (· == 0) u.opSeq = true) ∧
    s.drained 0 (· == 0) s.opSeq = true ∧ loading.drained 0 (· == 0) loading.opSeq = false ∧ (s.g 2).toNat % 65536 = 0 ∧ s.g 2 ≠ 0#64 ∧
    (near 1).toNat % 65536 ≠ 0 := by decide +kernel

theorem wit_FaultsStopTheThread : let s := me base fun r => { r with faultLine := near 0 }
    s.cc.inflight = [] ∧ s.cc.susp = none ∧ s.writesOut 0 .part = false ∧ s.resident s.tid = true ∧ s.findRec s.tid = some s.me ∧ s.me.save = false ∧
    (∀ f : Ctx → Ctx, ((s.modCur f).access s.ag { Acc.store 64 with n := 64 } s.me.faultLine).1 = .ok (.mem (tk 0))) ∧
    isHostKey (tk 0) = false ∧ (s.part 0).dpaKey ((s.desc 0 0x80).toNat + 64 * (s.part 0).flatCore 0) + 64 ≤ tk 0 := by
  and_intros <;> first | decide +kernel | exact fun _ => by rfl
/-- The other thread ready and queued; in a deep core's queue; asleep with a deadline and a coarse watch; spilled asleep. -/
def queuedT : State := (other base .ready).joinQueue 0x200#32
def queuedD : State :=
  ((base.setSlot 0 2 { Rec.empty with tid := 0x200#32, state := .ready, deep := true, table := 1#10 }).joinQueue 0x200#32)
def sleeper : State :=
  (((other base .sleeping).modRec 0x200#32 fun r => { r with deadline := some 9, deliver := true }).modCore 0 fun c =>
    { c with watches := [{ tid := 0x200#32, num := 3, line := 0, coarse := true, home := 0 }] })
def spilledT : State :=
  base.modBulk 0 fun b => { b with shallows := [{ Rec.empty with tid := 0x200#32, state := .spilled, spillKind := 1#2, deadline := some 9 }] }
/-- The other thread in context 2 of core 0, suspending, or stopping. -/
def inTwo (su : Option Susp) (st : Option Stop) : State :=
  ((other base .bound).modRec 0x200#32 fun r => { r with place := some (0, 2) }).modCtx 0 2 fun _ =>
    { Ctx.empty with bound := true, tid := 0x200#32, susp := su, stop := st }
def stopFor (code : Option Nat) (l : List (Nat × Nat × Nat)) : Stop :=
  { code := code, pc := 0, resume := 0, addr := 0, detail := 0, late := false, seq := 0, rseq := 0, callers := l }
theorem wit_ThreadEvents : let r (s : State) : Rec := s.recOf 0x200#32
    queuedT.findRec 0x200#32 = some (r queuedT) ∧ queuedT.resident 0x200#32 = true ∧ (base.ctx 0 3).bound = false ∧
    (base.partOf (0 / 32)).isSome = true ∧ (isDeep 0 = false ∧ (base.unit (coreUnit 0)).gated = false) ∧
    (queuedT.takesNext 1 = true ∧ queuedT.barrelPick 1 = some 0x200#32) ∧
    (isDeep 24 = true ∧ queuedD.bestHead (coreUnit 24) = some (0, 0x200#32) ∧ (queuedD.ctx 24 3).bound = false) ∧
    (let u := (steward.modRec 0#32 fun r => { r with state := .ready }).modCtx 0 0 fun _ => Ctx.empty
     (u.slotRec 0 0).state = .ready ∧ u.findRec 0#32 = some (u.slotRec 0 0) ∧ (u.ctx 0 0).bound = false) ∧
    (r queuedT).state = .ready ∧ queuedT.recRuns (r queuedT) = true ∧ (r queuedT).level < 3 ∧
    (r queuedT).since + 4096 ≤ ({ queuedT with ts := 4096 }).ts ∧
    (r sleeper).deadline = some 9 ∧ (r sleeper).wakeable = true ∧ 9 ≤ ({ sleeper with ts := 9 }).tsOf 0 ∧
    (∃ w ∈ sleeper.watchesOf 0x200#32, w.num = 3 ∧ w.coarse = true ∧ w.home = 0) ∧
    (∀ q ∈ (sleeper.bulk (tidBulk 0x200#32)).shallows, q.tid ≠ 0x200#32) ∧
    (spilledT.resident 0x200#32 = false ∧ spilledT.findRec 0x200#32 = some (r spilledT) ∧ (r spilledT).state = .spilled ∧
      (r spilledT).wakeable = true) ∧
    (let x (su : Susp) : Ctx := (inTwo (some su) none).ctx 0 2
     (x (.sleep none)).tid = 0x200#32 ∧ (x (.sleep none)).inflight = [] ∧ (x (.sleep (some 5))).susp = some (.sleep (some 5)) ∧
       (r (inTwo none none)).pending = 0#4 ∧ (inTwo none none).tsOf 0 < 5 ∧ (x (.svc 3 1)).susp = some (.svc 3 1) ∧
       (x (.migrate 5)).susp = some (.migrate 5) ∧ (inTwo none none).writesOut 0 .part = false) ∧
    (let u := inTwo none (some (stopFor none [(0, 1, 3)]))
     (u.ctx 0 2).stop = some (stopFor none [(0, 1, 3)]) ∧ (r u).save = false ∧ u.resident 0x200#32 = true) := by
  and_intros <;> decide +kernel
/-- Producers of the current context. -/
def flying (l : List ProdState) : State := base.modCur fun c =>
  { c with retired := 3, inflight := l.map fun st =>
      { pc := 0, seq := 2, dest := .g 5, op := .load (near 0) 8 false, st := st, post := none, sc := none } }
/-- At a LDFE g2, [g1] of an empty word of the tarn, as the 64th failure leaves it. -/
def parking (i : Instr) (full : Bool) : State :=
  let s := (gs base [(1, near 0)]).modMem fun m => (m.setBytes 0 (encode i)).setFull (tk 0) full
  s.modCur fun c => { c with wait := .parkReq }
theorem wit_ContextEvents :
    (let s := flying [.valueG 7#64]; (s.ctx 0 1).inflight[0]?.map (fun p => p.st) = some (.valueG 7#64) ∧ (s.ctx 0 1).wait = .none_) ∧
    (let s := flying [.fault 0x13 0 0, .held none]
     (s.ctx 0 1).inflight[0]?.map (fun p => p.st) = some (.fault 0x13 0 0) ∧ (s.ctx 0 1).stop = none ∧
       (((s.ctx 0 1).inflight.eraseIdx 0).any Producer.live) = true ∧ ((s.ctx 0 1).inflight.all fun p => decide (p.seq < 3)) = true ∧
       ((s.ctx 0 1).inflight.all fun p => decide (2 ≤ p.seq)) = true) ∧
    (let e : Nat × Nat × Post := (0, 1, { reg := 4, vec := false, value := 9, q := 1#8, src := some (0, 2) })
     let s := un base fun u => { u with posts := [e] }
     nextPost (s.unit (coreUnit 0)).posts (s.ctx 0 1) 0 1 = some e ∧ (s.ctx 0 1).posts.length < 4 ∧ (s.ctx 0 1).bound = true) ∧
    (let ok (i : Instr) (full w : Bool) : Bool :=
      let s := parking i full
      let u := { s with cur := (0, 1) }.modCtx 0 1 fun c => { c with wait := .none_ }
      decide (u.fetch 0 1 = .instr i 4) && (u.access u.ag { Acc.load 8 with write := w, fe := true } (u.g 1 + (0#8).signExtend 64 * 8#64)).1 ==
        .ok (.mem (tk 0)) && s.mem.full (tk 0) == full && !s.mem.poisoned (tk 0) 8 && s.cc.wait == .parkReq
     ok (.ldfe .plain .core 2 1 0) false false = true ∧ ok (.ldf .plain .core 2 1 0) false false = true ∧
       ok (.stef .plain .core 2 1 0) true true = true) ∧
    (let s := ((gs base [(1, near 0)]).modMem fun m => m.setBytes 0 (encode (.ld .d .sc .part 2 1 0))).modCur fun c =>
        { c with wait := .scWindow 1 0 0 }
     let t := { s with ts := 64 }
     let u := { t with cur := (0, 1) }.modCtx 0 1 fun c => { c with wait := .none_, scOpen := true }
     (t.ctx 0 1).wait = .scWindow 1 0 0 ∧ 32 * (1 + 1) ≤ t.tsOf 0 ∧ (∀ y ∈ t.scWaiting (t.part 0).bulks, scBefore y (1, 0, 0) = false) ∧
       u.fetch 0 1 = .instr (.ld .d .sc .part 2 1 0) 4 ∧ scForm (.ld .d .sc .part 2 1 0) = true) := by decide +kernel
/-- Bytes of the partition's device memory from DPA o. -/
def dev (s : State) (o : Nat) (bs : List Byte) : State := s.modMem fun m => m.setBytes o bs
/-- Areas: queue table 0x1000, slot table 0x20000, pending area 0x30000. Queue 0 of VF 0, its ring of two 64-byte records at
VA 0x10_0000, HEAD 0 and TAIL n; slot 0's request word; slot 0 with or without the queue. -/
def queues (n : Nat) (req : Nat) (held np : Bool) : State :=
  let s := mapped (((base.setDesc 0 0x60 0x1000#64).setDesc 0 0x68 0x20000#64).setDesc 0 0x70 0x30000#64)
  let s := dev (dev s 0x1000 ([0x100000, 1 + (if np then 16 else 0) + 32, 0, n].flatMap fun (w : Nat) => leBytes 8 w)) 0x20000
    (leBytes 8 req)
  if held then pt s fun p => { p with slots := [(0, { queue := some 0, idle := false })] } else s
/-- A launch record: PC 0x40, g2 0, completion line 0, no records, one cluster, one thread, one stage, autoreap, weight 1, table 1. -/
def record : List Byte :=
  ([0x40, 0, 0, 0, 0].flatMap fun (w : Nat) => leBytes 8 w) ++ leBytes 2 0 ++ leBytes 2 1 ++ leBytes 1 1 ++ leBytes 1 1 ++ leBytes 1 8 ++
  leBytes 1 1 ++ leBytes 2 1 ++ leBytes 14 0
theorem wit_QueueEvents : let s := queues 1 (2 ^ 63) false false
    s.rmode 0 = 0 ∧ (s.part 0).heldStatus = [] ∧ s.partOf (0 / 4) = some 0 ∧ s.replaying 0 = false ∧ (s.queueDesc 0 0).valid = true ∧
    (s.queueDesc 0 0).vf = 0 ∧ s.queueKey 0 0 = 0x1000 ∧ s.areaKey 0 0x70 = 0x30000 ∧ s.slotOf 0 0 = none ∧
    ((queues 1 0 true false).slot 0 0).queue = some 0 ∧ (queues 1 0 true false).slotOf 0 0 = some 0 ∧
    s.partRunning 0 = true ∧ s.slotKey 0 0 = 0x20000 ∧ s.mem.num 0x20000 8 / 2 ^ 63 = 1 ∧ (2 ^ 63).testBit 10 = false ∧
    (s.queueDesc 0 1).valid = false ∧ (s.slot 0 0).queue = none ∧
    (let u := queues 1 (2 ^ 63 + 1024) true false
     (u.mem.num 0x20000 8).testBit 10 = true ∧ (u.queueDesc 0 0).np = false ∧ u.slotSent 0 0 = true ∧ (u.slot 0 0).idle = false) ∧
    ((queues 1 0 true true).queueDesc 0 0).np = true ∧
    (let d := (queues 3 0 true false).queueDesc 0 0; 2 ^ d.k < d.offered) := by decide +kernel

/-- Slot 0 with this record next in its ring. -/
def offering (bs : List Byte) : State := dev (queues 1 0 true false) 0x100000 bs
theorem wit_QueueEvents_take : let s := offering record
    let d := s.queueDesc 0 0
    s.rmode 0 = 0 ∧ (s.slot 0 0).queue = some 0 ∧ s.replaying 0 = false ∧ (s.slot 0 0).idle = false ∧ s.slotSent 0 0 = true ∧
    0 < d.offered ∧ d.offered ≤ 2 ^ d.k ∧
    s.reaches (s.queueAgent 0 d.vf 0) (Acc.vload 64) (d.ring + BitVec.ofNat 64 (64 * (d.head % 2 ^ d.k))) (.mem 0x100000) ∧
    isHostKey 0x100000 = false ∧ s.mem.poisoned 0x100000 64 = false ∧ s.mem.bytes 0x100000 64 = record ∧
    s.launchStatus 0 0 record = 0 ∧ s.launchStatus 0 0 (record.set 0 1) = 3 ∧ (s.part 0).resumeDue.contains 0 = false ∧
    (s.part 0).running = some 0 := by decide +kernel
/-- A launch of two threads a core to cluster 0, its flood still in the meshes; with core 0's share held; with all ended. -/
def launch (floods counting : List Nat) (held : List (Nat × Nat)) (line : Word) : Launch :=
  { id := 0, addr := 0x100000, words := [0x40, 0, line, 0, 0, 0x0108010200010000#64, 1, 0], vf := 0, queueVf := 0, slot := 0,
    floods := floods, counting := counting, heldShares := held }
def launched (l : Launch) (left : List (Nat × Nat)) : State :=
  un (pt base fun p => { p with launches := [l], launchSeq := 1 }) fun u => { u with launches := left }
theorem wit_LaunchEvents :
    (let l := launch [0] [0] [] 0
     let s := launched l []
     (s.part 0).notices = [] ∧ l.words.length = 8 ∧ (s.part 0).clOfFlat 0 = 0 ∧ lField l.bytes 0x2c 1 = 2 ∧
       (s.part 0).launches.find? (fun x => x.floods.contains 0) = some l ∧ (s.unit 0).launches.length < 16 ∧ (s.unit 0).gated = false ∧
       2 ≤ ((List.range 256).filter fun j => j ≠ 0 && (s.slotRec 0 j).state == .free).length) ∧
    (let l := launch [] [0] [(0, 1)] 0
     let s := launched l [(0, 8)]
     s.partOf (0 / 8) = some 0 ∧ (s.part 0).launches.find? (fun x => x.heldShares.any fun h => h.1 == coreKey 0 0 0) = some l ∧
       l.heldShares.find? (fun h => h.1 == coreKey 0 0 0) = some (coreKey 0 0 0, 1) ∧ (s.part 0).flatCl (coreUnit 0) = 0) ∧
    (let l := launch [] [0] [] (near 0x40)
     let s := launched l [(0, 0)]
     (s.part 0).launches.find? (fun x => x.id == 0) = some l ∧ 0 ∈ l.counting ∧ (0, 0) ∈ (s.unit 0).launches ∧
       (∀ h ∈ l.heldShares, coreUnit h.1 ≠ 0) ∧ (near 0x40).toNat % 64 = 0 ∧
       s.reaches { part := 0, vf := 0, bulk := 0, unit := 0, deep := false, engine := true, tid := 0#32, holder := .decrement 0 0 0 }
         (Acc.atomic 8) (near 0x40) (.mem (tk 0x40)) ∧ isHostKey (tk 0x40) = false ∧ s.mem.poisoned (tk 0x40) 8 = false ∧ s.writesOut 0 .sys = false) := by
  decide +kernel
/-- A switch to VF 1 that is due at TS 5, or has begun. -/
def switching (begun : Option Nat) (running : Option Nat) : State :=
  let w : Switch := { vf := 1, at_ := 5, coop := false, line := 0xfffe000000000040#64, callerVf := 0, bulk := 0, outgoing := some 0, savedAt := 6, arrived := 0,
                      forced := 1, begun := begun, halted := begun.isSome, saved := begun.isSome }
  let sv : SavedVf := { vf := 1, ctxs := [(0, 3, { Ctx.empty with bound := true, pc := 0x40 })], units := [], sends := [], floods := [], posts := [],
                        since := 0 }
  { pt base fun p => { p with switch := some w, running := running, savedVfs := [sv] } with ts := 6 }
theorem wit_SwitchEvents : let due := switching none (some 0)
    ((due.part 0).switch.map fun w => (w.saved, due.reached 0 0 w)) = some (false, false) ∧ due.partOf (0 / 32) = some 0 ∧
    ((due.part 0).switch.map fun w => (w.begun, w.at_)) = some (none, 5) ∧ 5 ≤ due.tsOf 0 ∧ (due.part 0).running = some 0 ∧
    due.mustFinish 0 0 = false ∧ due.vfCtxs 0 0 = [(0, 1)] ∧ (due.unit 0).mq = [] ∧ ((switching none none).part 0).running = none ∧
    (let s := pt (switching none none) fun p => { p with next := some 1 }
     (s.part 0).next = some 1 ∧ s.mayRun 0 1 = true ∧ (s.part 0).switch.map (fun w => w.begun) = some none) ∧
    (let s := switching (some 5) none
     ((s.part 0).switch.map fun w => w.begun) = some (some 5) ∧ s.mayRun 0 1 = true ∧ s.writesOut 0 .sys = false ∧
       ((s.part 0).switch.map fun w => (s.access (w.agent 0 (.switch 0)) (Acc.store 8) w.line).1) = some (.ok (.mem (tk 0x40))) ∧
       isHostKey (tk 0x40) = false ∧ isHostKey (tk 0x40 + 39) = false ∧
       ((s.part 0).savedVfs.find? fun v => v.vf == 1).map (fun v => (v.ctxs.map fun y => (y.1, y.2.1))) = some [(0, 3)] ∧ [(0, 3)].Nodup) := by
  decide +kernel
/-- The current thread's SEND to the thread itself, on its way; with these answers. -/
def sending (s : State) (t : W32) : State := run (gs s [(1, t.setWidth 64)]) (.send 2 1)
def answered (w : Word) : State := (sending base 0x100#32).modCur fun c => { c with answer := some w }
/-- A posted, or a blocked SEND's, entry of core 0's send buffer, from thread 0x200. -/
def buffered (s : State) (posted : Bool) (target : W32) : State :=
  ((other s .sleeping).modRec 0x200#32 fun r => { r with sendwait := true }).modCore 0 fun c =>
    { c with sendBuf := [{ posted := posted, msg := { sender := 0x200#32, target := target, pc := 0, body := 5 }, dest := 2, first := none,
                           tries := 0, vf := 0, faultLine := 0, inbox := 0, deep := false, extra := false, ended := none }] }
theorem wit_MessageEvents :
    (let s := sending base 0x300#32; (s.cc.msg.map fun m => m.1.target) = some 0x300#32 ∧ s.cc.answer = none ∧ s.findRec 0x300#32 = none) ∧
    ((sending (other base .retired) 0x200#32).recOf 0x200#32).state = .retired ∧ (sending base 0x100#32).me.inbox = 0#64 ∧
    (sending base 0x100#32).findRec 0x100#32 = some (sending base 0x100#32).me ∧
    (let s := sending (inbox base 4 4 0 0) 0x100#32; boxOf s = some (tk 0, 4, 4)) ∧
    (let s := sending (inbox base 3 0 0 0) 0x100#32
     boxOf s = some (tk 0, 3, 0) ∧ (s.homeOf s.me.inboxAgent (near 0x10c0)).1 = some (tk 0x10c0) ∧ isHostKey (tk 0x10c0) = false) ∧
    (answered 3).cc.answer = some 3#64 ∧ (answered (BitVec.allOnes 64)).cc.answer = some (BitVec.allOnes 64) ∧
    (answered 3).cc.carryFull = true ∧ ((answered 3).cc.msg.map fun m => m.1.sender) = some (answered 3).tid ∧
    (answered 3).writesOut 0 .part = false ∧ ((answered 3).core 0).sendBuf = [] ∧
    (answered 3).cc.inflight = [] ∧ (answered 3).resident (answered 3).tid = true ∧
    (let due (s : State) : Bool := match (s.core 0).sendBuf[0]? with
      | some e => s.sendDue 0 0 e && e.first == none && decide (e.tries < 16) && e.ended.isNone &&
          ((s.core 0).sendBuf.all fun y => !y.extra)
      | none => false
     let give (s : State) : Option Deliver := (s.core 0).sendBuf[0]?.map fun e => (s.deliver e.msg).1
     due (buffered (inbox base 0 0 0 0) true 0x100#32) = true ∧ give (buffered (inbox base 0 0 0 0) true 0x100#32) = some (.done 0) ∧
       due (buffered (inbox base 0 0 0 0) false 0x100#32) = true ∧ give (buffered base false 0x300#32) = some (.bounce 0) ∧
       give (buffered (inbox base 4 4 0 0) false 0x100#32) = some .full ∧
       (let s := (buffered { (inbox base 4 4 0 0) with ts := 1000000 } false 0x100#32).modCore 0 fun c =>
          { c with sendBuf := c.sendBuf.map fun e => { e with first := some 0, tries := 14 } }
        give s = some .full ∧ ((s.core 0).sendBuf[0]?.map fun e => s.sendDue 0 0 e) = some true) ∧
       (buffered base false 0x100#32).resident 0x200#32 = true ∧ ((buffered base false 0x100#32).recOf 0x200#32).state = .sleeping) := by
  decide +kernel

/-- R342: the exporter has stopped; a cached translation still leads to its window, poisoned to read, refused to write. -/
theorem test_stopped_exporter : let u := (two base).setDesc 1 0x10 0#64
    (u.access u.ag (Acc.load 8) 0x300000#64).1 = .ok (.window 1 0) ∧ u.placePoison (.window 1 0) 8 = true ∧
    (u.access u.ag (Acc.store 8) 0x300000#64).1 = .fault 0x16 0#64 := by decide +kernel

/-- Partition 0 with window 3 open to partition 1 (pages 0-15, with writes), partition 1 running, and an inbound Reedway window. -/
def opened : State :=
  let s := ((two base).setDesc 0 0x130 0x0103#64).setDesc 0 0x138 0x0000000010000000#64
  (s.pfSet (rwOff 0 2) 0x0000000700000507#64).pfSet (rwOff 0 2 + 8) 0x0000000010000000#64
/-- A store waits for slice 5's and slice 0's change of page 16; host line 64 is held by the proxy home; line 0x4000 was sent a BISnp. -/
def changing : GrainReq := { page := 16, grain := 2#2, done := 0xde#8, core := 0, ctx := 1 }
def homes : State :=
  (({ base with proxy := [(proxyKey 0 64, HostLine.m)] }).modBulk 0 fun b => { b with grainReqs := [changing], bisnp := [(0x4000, 1)] }).modCore 0
    fun c => { c with l1 := [(0x40000, .m)] }
theorem noRecs (s : State) (h : (s.bulks.all fun y => y.2.pendRecs.isEmpty) = true) (b : Nat) : (s.bulk b).pendRecs = [] := by
  unfold State.bulk
  generalize s.bulks = l at h
  induction l with
  | nil => rfl
  | cons y l ih =>
    simp only [List.all_cons, Bool.and_eq_true, List.isEmpty_iff] at h
    simp only [fget]
    split
    · exact h.1
    · exact ih h.2
theorem wit_HomeEvents : let s := opened
    s.hostKeyOf 0x100000 8 = some (0, 0x100000) ∧ s.hostKeyOf 0x100000 4 = some (0, 0x100000) ∧ s.homeOpen 0x100000 8 ∧
    s.homeOpen 0x100000 4 ∧ s.hcFull 0x100000 8 = none ∧ (∀ b, (s.bulk b).pendRecs = []) ∧ s.replaying 0 = false ∧ s.rmode 0 = 0 ∧ s.sealedRange 0x100000 8 = false ∧ s.sealed 0x100000 = false ∧
    s.mem.poisoned 0x100000 8 = false ∧ s.partRunning 0 = true ∧ s.partRunning 1 = true ∧
    s.windowAdmits 0 1 0xffff8 true = true ∧ s.windowAdmits 0 1 0xffff8 false = true ∧ s.windowAdmits 0 1 0x100000 false = false ∧
    s.windowAdmits 0 1 0x20000 true = true ∧ (s.part 0).dpaKey 0x20000 = 0x20000 ∧ s.sealed 0x20000 = false ∧
    s.sealedRange 0x20000 8 = false ∧ s.homeFree 0x20000 8 ∧ s.homeFree 0xffff8 8 ∧
    s.inbound 0 7 5 0x20000 true = true ∧ s.inbound 0 7 5 0x20000 false = true ∧ s.inbound 0 7 4 0x20000 false = false ∧
    (let u := homes
     (u.bulk 0).grainReqs.find? (fun r => !r.done.getLsbD 5) = some changing ∧
       (u.bulk 0).grainReqs.find? (fun r => !r.done.getLsbD 0) = some changing ∧
       u.partOf (0 / 32) = some 0 ∧ isDevKey 0x40000 = true ∧ (u.part 0).bulks.contains (keyBulk 0x40000) = true ∧
       u.homeOpen (u.unitOf 0x40000) (grainBytes (u.grainOf 0x40000)) ∧ u.grainBusy 0x100000 = true ∧ (u.bulk 0).biOver = [] ∧
       (∀ b, (u.bulk b).pendRecs = []) ∧ u.hostOps = [] ∧ u.biNeeds 0x40000 32 false = [] ∧ u.biNeeds 0x40000 32 true = [] ∧
       u.l1Room 4 0x40000 = true ∧ u.l2Room (keyBulk 0x40000) (dirKey 0x40000) = true ∧ u.l1Get 4 0x40000 = .i ∧ u.l1Get 0 0x40000 = .m ∧
       u.proxyGet 0 64 = .m ∧ ((u.bulk ((u.part 0).proxyHome (64 * 64))).watchers ((2 ^ 64 + 64 * 64) / 64)).isEmpty = true ∧
       fget 0 (u.bulk 0).bisnp 0x4000 = 1 ∧ u.sealed (64 * 0x4000) = false ∧
       (let v := pt u fun p => { p with ranges := p.ranges.map fun r => { r with pages := [16] } }
        v.sealed (64 * 0x4000) = true ∧ v.partOf 0 = some 0 ∧ v.desc 0 0x90 = 0#64 ∧ fget 0 (v.bulk 0).bisnp 0x4000 = 1 ∧
          (v.bulk 0).biOver = []) ∧
       u.mem.poisoned 0x40000 1 = false ∧ crc32c (u.mem.bytes (0x40000 / 64 * 64) 64) ≠ 0#32 ∧ u.partOf (u.hopAt 0 4 0x40000).1 = some 0 ∧
       u.desc 0 0x90 = 0#64 ∧ keyHasFe 0x40000 = true ∧
       (u.modMem fun m => m.setPoison 0x1000 true).mem.poisoned 0x40000 1 = true) := by
  simp only [State.homeOpen, State.homeFree]
  and_intros <;> first | decide +kernel | exact noRecs _ (by decide +kernel)
/-- The vectors of RFC 3720, Appendix B.4. -/
theorem test_crc32c : crc32c (List.replicate 32 0#8) = 0x8a9136aa#32 ∧
    crc32c ((List.range 32).map (BitVec.ofNat 8)) = 0x46dd794e#32 := by decide +kernel
/-- A block with a wrong check is poisoned and logged with cause 6, once. -/
theorem test_carry_check :
    let t := run homes (.coherenceRequest 0 0x40010 (.verify 0#32 3 9))
    t.mem.poisoned 0x40000 1 = true ∧ (t.bulk 0).vcount = 1#32 ∧
    ((fget 0#128 (t.bulk 0).vlog 0).extractLsb' 0 96) = 0x000903060000000000040000#96 ∧
    (run t (.coherenceRequest 0 0x40010 (.verify 0#32 3 9))).bulks = t.bulks := by decide +kernel
/-- A load from the host that no link takes; an operation of the current thread on a reed link. -/
def unsent : State := run (gs { (mapped base) with portUp := [false, false] } [(1, 0x200000#64)]) (.ld .d .plain .core 2 1 0)
def remoting (write sent : Bool) (h : Option Holder) : State :=
  let ops (s : State) : List HostOp := (writing s sent).remoteOps.map fun o => { o with write := write, holder := h }
  { base with ts := 10000000, remoteOps := ops base, hostOps := ops base, opSeq := 4 }
/-- VA 0x40_0000 leads by reed port 0 to the memory of a remote package; a load from there is on its way. -/
def far : State :=
  let s := ((base.pfSet (rwOff 0 0) 0x0000000700000503#64).pfSet (rwOff 0 0 + 8) 0x0000000010000000#64).pfSet (rwOff 0 0 + 16) 1#64
  (mapped s).modBulk 0 fun b => { b with tlb := b.tlb ++
    [{ tag := 0, pasid := 0, vpage := 64, pages := 1, ppage := s.bar4 / 65536, win := none, r := true, w := true }] }
def farLoad : State := run (gs far [(1, 0x400000#64)]) (.ld .d .plain .core 2 1 0)
/-- The operation o of s waits for data that a producer of the current context takes at the key. -/
def awaits (s : State) (o : HostOp) (key : Nat) : Bool :=
  let pr := (s.ctx 0 1).inflight
  o.ans == .pending && o.sent && !o.write && !o.own && o.holder.isNone && o.core == 0 && o.ctx == 1 && o.newer.isEmpty &&
  pr.findIdx? (Producer.waitsFor o.id) == some 0 && (pr[0]?.map fun p => decide (p.st = .link [o.id] [] [.far key])) == some true &&
  decide (key / 64 = o.base / 64)
theorem wit_LinkEvents :
    (State.reset.hostOps = [] ∧ State.reset.remoteOps = [] ∧ ∀ c ∈ State.reset.cores, c.2.watches = []) ∧
    (let s := loading
     match s.hostOp 0 0 with
     | some o => awaits s o (hostKey (2 ^ 36)) && !o.atomic && decide (o.key % 64 = 0) && s.proxyGet 0 (hostLineOf o.key) == .i &&
         ((s.ctx 0 1).inflight[0]?.map fun p => decide (p.op = .load 0x200000#64 8 false)) == some true
     | none => false) = true ∧
    (let s := run (gs (mapped base) [(1, 0x200000#64)]) (.amoAdd true .plain .core 2 1 3)
     match s.hostOp 0 0 with
     | some o => awaits s o o.key && o.atomic
     | none => false) = true ∧
    (let s := run (gs far [(1, 0x400000#64)]) (.amoAdd true .plain .core 2 1 3)
     match s.remoteOps[0]? with
     | some o => awaits s o o.key && o.atomic
     | none => false) = true ∧
    (let s := { loading with ts := 10000000 }
     match s.hostOp 0 0 with | some o => decide (o.since + 10000000 ≤ s.ts) | none => false) = true ∧
    (let s := run (gs { (mapped base) with portCxl := [true, true], proxy := [(proxyKey 0 (2 ^ 36 / 64), .m)] } [(1, 0x200000#64)])
        (.st .d .plain .core 2 1 0)
     s.proxyGet 0 (2 ^ 36 / 64) = .m) ∧
    (let s := farLoad
     match s.remoteOps[0]? with
     | some o => awaits s o o.key && !o.atomic && decide (o.key % 64 = 0) &&
         ((s.ctx 0 1).inflight[0]?.map fun p => decide (p.op = .load 0x400000#64 8 false)) == some true
     | none => false) = true ∧
    (∀ w s', (remoting w s' none).remoteOps[0]?.map (fun o => (o.write, o.sent, o.since, o.ans == .pending, decide (o.id < 4))) =
      some (w, s', 0, true, true)) ∧
    (let s := remoting false true (some (.outbound 0))
     (s.remoteOps[0]?.map fun o => o.holder.isSome && o.holder != some .line) = some true ∧ (s.hostOp 0 0) = s.remoteOps[0]?) ∧
    0 + 10000000 ≤ (remoting true true none).ts := by
  and_intros <;> decide +kernel
/-- R149, R152: a host line answered over CXL.cache is held by the proxy home and the L1, until a snoop takes it. -/
theorem test_host_line :
    let t := run { loading with portCxl := [true, true] } (.hostLinkCompletion 0 0 (.data (List.replicate 64 7#8)))
    let u := run t (.hostSnoop 0 (2 ^ 36 / 64) (.take none))
    t.proxyGet 0 (2 ^ 36 / 64) = .s ∧ t.l1Get 0 (hostKey (2 ^ 36)) = .s ∧ t.onDevice 0 (.mem (hostKey (2 ^ 36))) = true ∧
    u.proxyGet 0 (2 ^ 36 / 64) = .i ∧ u.l1Get 0 (hostKey (2 ^ 36)) = .i := by decide +kernel

/-- Command c alone in cluster 0's matrix queue, with a full Wellhead slot 0 whose program stores d0 as 4-byte words to line 0. -/
def queuedM (c : ECmd) : State := un base fun u =>
  { u with
    mq := [c], wellhead := [(0, BitVec.ofNat 512 (13 * 2 ^ 27 + 2 + 16 * 2 ^ 27 * 2 ^ 32))], whValid := [(0, true)]
    tiles := [(0, 5#32), (64, 7#32)] }
/-- M, N 8, K 32; completion word at 0x40 of the own tarn. -/
def mcmd (fn : Nat) (ph : Phase) : ECmd := { cmd fn true [(3, BitVec.ofNat 64 (31 * 2 ^ 4)), (5, near 0x40), (6, 9#64)] with phase := ph }
/-- A drain of tile 0 at row 0, line 0 from 0x1000 of the own tarn with 64 bytes between rows. -/
def draining : State :=
  let s := queuedM (mcmd 4 .drain)
  un s fun u => { u with run := some { cmd := mcmd 4 .drain, prog := fget 0#512 u.wellhead 0, params := [], coefs := [], row := 0, blk := 0,
                                       desc := BitVec.ofNat 512 ((near 0x1000).toNat + 64 * 2 ^ 64) } }
theorem wit_MatrixEvents_start :
    (∀ fn ∈ [0, 2, 3], ((queuedM (mcmd fn .waiting)).unit 0).mayStart 0 (mcmd fn .waiting) = true ∧
      (queuedM (mcmd fn .waiting)).engineStop (mcmd fn .waiting) = false) ∧
    ((queuedM (cmd 8 true [])).unit 0).mayStart 0 (cmd 8 true []) = true ∧
    (let c := mcmd 1 .waiting
     let s := queuedM c
     let ix := (List.range c.m).map fun i => leNat (s.mem.bytes (tarnKey 0 (c.fld 7 0 22 + 2 * i)) 2)
     (s.unit 0).mayStart 0 c = true ∧ s.tarnPoison 0 (c.fld 7 0 22) (2 * c.m) = none ∧ ix.findIdx? c.indexBad = none) ∧
    (let c := mcmd 4 .waiting
     let s := queuedM c
     (s.unit 0).mayStart 0 c = true ∧ fget false (s.unit 0).whValid c.prog = true ∧ c.fld 4 0 22 = 0 ∧ s.tarnPoison 0 0 64 = none ∧
       descBad (s.mem.block (tarnKey 0 0)) = false ∧ s.tarnPoison 0 (dPbase (s.mem.block (tarnKey 0 0))) 1024 = none ∧
       s.tarnPoison 0 (dCbase (s.mem.block (tarnKey 0 0))) 512 = none) ∧
    (let c := mcmd 0 .drainWait
     ((queuedM c).unit 0).drainFree = true ∧ ((queuedM c).unit 0).dploadAhead 0 c = false) := by decide +kernel
theorem wit_MatrixEvents_complete : (∀ fn ∈ [0, 2, 3],
    let c := mcmd fn .array
    let s := queuedM c
    (s.unit 0).mq.findIdx? (fun y => y.phase == Phase.array) = some 0 ∧ c.hasTile = true ∧ c.fl.dec = false ∧
    (∀ y ∈ (s.unit 0).mq, y.phase ≠ .complete ∧ y.phase ≠ .faulted) ∧ (s.unit 0).resumed = [] ∧ c.piece = 0 ∧ s.engineStop c = false ∧ s.writesOut c.issuer.part c.fl.scope = false ∧
    s.reaches (c.issuer.agent 0 (.engine 0 c.tile)) (Acc.store 8) (c.reg 5) (.mem (tk 0x40)) ∧ isHostKey (tk 0x40) = false ∧
    (∀ i, i < c.m → s.tarnPoison 0 (c.rowOff 0 i) (4 * c.n) = none) ∧ c.drains = false ∧ s.firstPoison 0 c = none) ∧
    (mcmd 0 .array).isMma = true ∧ fmtInt (mcmd 0 .array).fa = false ∧
    (let c := { mcmd 0 .array with e := [(3, BitVec.ofNat 64 (31 * 2 ^ 4 + 7 * 2 ^ 17 + 7 * 2 ^ 21)), (5, near 0x40)] }
     fmtInt c.fa = true ∧ fmtInt c.fb = true ∧ (queuedM c).firstPoison 0 c = none) := by decide +kernel
theorem wit_MatrixEvents_image_drain :
    (let c : ECmd := { cmd 8 true [] with src := 0x100000, phase := .image }
     let s := (un (mapped base) fun u => { u with mq := [c] }).modMem fun m => m.setBytes 0x100003 [16 * 8#8]
     s.reaches (c.issuer.agent 0 (.engine 0 (8 + c.slot))) (Acc.vload 64) c.src (.mem 0x100000) ∧ s.mem.poisoned 0x100000 64 = false ∧
       imageBad (imageWords (s.mem.block 0x100000)) 0 = none ∧ imageBad (imageWords ((mapped base).mem.block 0x100000)) 0 ≠ none) ∧
    (let s := draining
     ((s.unit 0).run.map fun r => decide (r.row + 1 < r.cmd.m) && !s.engineStop r.cmd && !s.writesOut r.cmd.issuer.part r.cmd.fl.scope && (List.range ((r.cmd.n + 31) / 32)).drop r.blk == [0] &&
       ((r.block (s.unit 0) 0 0).zip (List.range 8)).all fun y =>
         (r.block (s.unit 0) 0 0).length == 8 && y.1.2.2.1 == 4 && (s.drainAddr 0 r 0 y.1).2 == false &&
         (s.access (r.cmd.issuer.agent 0 (.drain 0)) (Acc.store 4) (s.drainAddr 0 r 0 y.1).1).1 == .ok (.mem (tk (0x1000 + 4 * y.2)))) =
      some true) := by decide +kernel
/-- A copy command of the thread of `base`: a FILL of 8,192 bytes of 0x11 from 0x10_0000, completion at 0x40 of the own tarn. -/
def fillCmd (piece : Nat) : ECmd :=
  { cmd 3 false [(0, 0x1111111111111111#64), (1, 0x100000#64), (2, 8192#64), (5, near 0x40), (6, 9#64)] with piece := piece, phase := .arrived }
def streaming (piece : Nat) : State := un (mapped base) fun u => { u with sq := [fillCmd piece] }
def fired (c : ECmd) : State := un base fun u => { u with gates := [{ idx := 0, id := 0, fired := some 0, counter := tk 8, cmd := c }] }
theorem wit_CopyAndGroupEvents :
    (let c := cmd 0 false [(0, 0x100000#64)]
     let s := un (mapped base) fun u => { u with outq := [c], flying := [c] }
     (s.unit 0).outq.head? = some c ∧ c.refused = none ∧ s.engineStop c = false ∧ (s.unit 0).sq.length < 64 ∧ (s.unit 0).flying[0]? = some c ∧ (∀ y ∈ (s.unit 0).flying.take 0, y.issuer.unit ≠ 0) ∧
       (s.locate (c.issuer.agent 0 (.outbound 0)) (Acc.load 1) (c.reg 0)).1 = .ok (.mem 0x100000) ∧
       (base.locate (c.issuer.agent 0 (.outbound 0)) (Acc.load 1) 1#64).1 ≠ .ok (.mem 1)) ∧
    (let s := streaming 0
     let c := fillCmd 0
     (s.unit 0).gated = false ∧ s.streamTurn 0 = some (0, 1) ∧ (s.unit 0).sq.find? (fun y => y.issuer.unit == 0) = some c ∧ c.pieces = 2 ∧
       c.total = 8192 ∧ (∀ j ∈ [0, 1, 4095], (s.copyByte 0 c j).1 = .ok (.mem (0x100000 + j)) 0x11#8 false)) ∧
    (let c := cmd 0 false [(0, 0x100000#64), (1, near 0), (2, 8#64)]
     let s := mapped base
     s.reaches (c.copyAgent 0) { Acc.load 1 with align := 1 } (c.reg 0 + 7#64) (.mem 0x100007) ∧
       s.reaches (c.copyAgent 0) { Acc.store 1 with align := 1 } (c.reg 1 + 7#64) (.mem (tk 7))) ∧
    (let s := streaming 2
     let c := fillCmd 2
     c.pieces ≤ c.piece ∧ c.phase ≠ .written ∧ s.engineStop c = false ∧ s.writesOut c.issuer.part c.doneScope = false ∧
       (writing s true).writesOut c.issuer.part { c with fl := { c.fl with scope := .sys } }.doneScope = true ∧
       (un s fun u => { u with sq := [{ c with phase := .written }] }).streamTurn 0 = some (0, 1) ∧ s.streamTurn 0 = some (0, 1) ∧ c.fl.dec = false ∧ s.writesOut c.issuer.part c.fl.scope = false ∧
       s.reaches (c.issuer.agent 0 (c.copyAgent 0).holder) (Acc.store 8) (c.reg 5) (.mem (tk 0x40))) ∧
    (let s := fired (mcmd 0 .waiting)
     (∀ G ∈ (s.unit 0).gates, (s.unit 0).gateFirst G = true ∧ G.cmd.matrix = true) ∧ (s.unit 0).mq.length < 16) ∧
    (let s := fired (fillCmd 0)
     (∀ G ∈ (s.unit 0).gates, (s.unit 0).gateFirst G = true ∧ G.cmd.matrix = false) ∧ s.outFree 0 = true) := by decide +kernel
theorem wit_CopyAndGroupEvents_group :
    (let s := { (run (es (gs joined [(3, 0#64)]) [(0, 0x100000#64), (1, 64#64)]) (.gload 2 1 3)) with ts := 4096 }
     let s := s.setGrp 0 5 { s.grp 0 5 with a := 1, fills := [] , p := true }
     (s.grp 0 5).valid = true ∧ (s.grp 0 5).p = true ∧ (s.grp 0 5).deadline < s.tsOf 0) ∧
    (let f : Fill := { seq := 0, timed := false, asked := 2, off := 0, source := 0x100000, len := 64, vf := 0, places := some [.mem 0x100000],
                       mark := 0, bad := false }
     let m : Member := { fc := 0, tid := 0x100#32, comp := near 0x40, dec := false, vf := 0 }
     let s := (joined.setGrp 0 5 { joined.grp 0 5 with fills := [f] }).setMems 0 5 [m]
     (s.grp 0 5).fills = [f] ∧ s.mems 0 5 = [m] ∧ m.dec = false ∧
       (∀ i, i < 1 → (f.blocks [.mem 0x100000])[i]? = some (.mem (0x100000 + 64 * i)) ∧ isHostKey (0x100000 + 64 * i) = false ∧
         s.homeBusy (0x100000 + 64 * i) 64 = false ∧ (s.bulk 0).homeQ = [] ∧ s.hcLines (0x100000 + 64 * i) 64 = [] ∧ s.mem.poisoned (0x100000 + 64 * i) 64 = false) ∧ (s.part 0).clOfFlat 0 = 0 ∧
       s.reaches { part := 0, vf := 0, bulk := 0, unit := 0, deep := false, engine := true, tid := 0x100#32, holder := .member 0 5 0 }
         (Acc.store 8) (near 0x40) (.mem (tk 0x40)) ∧ isHostKey (tk 0x40) = false ∧ tarnKey 0 0 + 64 ≤ tk 0x40) := by decide +kernel
/-- Package after reset with a start of partition 0 on bulkhead 0 requested, its command n with an argument; and partition 0 running. -/
def asking (n arg : Nat) : State :=
  (((State.reset.setDesc 0 0x00 1#64).setDesc 0 0x20 1#64).pfSet (vfOff 0 0) 3#64).setDesc 0 0x08 (BitVec.ofNat 64 (2 ^ 63 + 256 * arg + n))
def commanded (n arg : Nat) : State := (base.pfSet (vfOff 0 1) 3#64).setDesc 0 0x08 (BitVec.ofNat 64 (2 ^ 63 + 256 * arg + n))
/-- The scanner of partition 0 with this request, of a range of 64 KiB at VA 0x10_0000 with its bitmap in the next page. -/
def scanReq (boot : Bool) (res : Option (Nat × Nat)) (len : Nat) (pages : List Nat) : Scan :=
  { base := 0x100000, len := len, bitmap := 0x110000, status := 0xfffe000000000040#64, pasid := 0, vf := 0, bulk := 0, tid := 0x100#32, pc := 0, faultLine := 0, noticed := [], boot := boot,
    spoiled := false, pages := pages, bmPages := pages.map fun k => k + 1, result := res }
def scanning (s : State) (c : Scan) : State := pt s fun p => { p with scan := some c }
/-- A running partition in replay, with a record of an 8-byte write to DPA 0x30_0000 at RHEAD 0 of the buffer at 0x20_0000. -/
def replayed : State :=
  let s := ((((base.setDesc 0 0xa00 2#64).setDesc 0 0xa08 0x200000#64).setDesc 0 0xa10 64#64)).setDesc 0 0xa20 0#64
  dev s 0x200000 (leBytes 8 (1 + 8 * 2 ^ 32) ++ leBytes 8 0 ++ leBytes 8 0x300000 ++ leBytes 8 1 ++ leBytes 8 0x1122334455667788)
theorem wit_PartitionEvents :
    (base.desc 0 0x98 = 0#64 ∧ base.pfLate = [] ∧ (asking 1 0).desc 0 0x98 = 0#64) ∧
    (let s := asking 1 0
     s.busy 0 = true ∧ s.cmd 0 = 1 ∧ (s.part 0).scan = none ∧ s.startResult 0 = 0 ∧
       (State.reset.setDesc 0 0x08 (BitVec.ofNat 64 (2 ^ 63 + 1))).startResult 0 = 2) ∧
    (let s := scanning (pt (asking 1 0) fun p => { p with bulks := [0] })
     (s (scanReq true (some (0, 0)) 0 [])).busy 0 = true ∧ ((s (scanReq true (some (0, 0)) 0 [])).part 0).bulks = [0] ∧
       ((s (scanReq true (some (5, 0)) 0 [])).part 0).scan = some (scanReq true (some (5, 0)) 0 []) ∧
       (s (scanReq true (some (5, 0)) 0 [])).cmd 0 = 1) ∧
    (let s := commanded 2 0
     s.busy 0 = true ∧ s.cmd 0 = 2 ∧ (s.part 0).resetCause = none ∧ s.hostOps = [] ∧ (∀ i ∈ (s.part 0).bulks, i < 48) ∧
       s.partOf (0 / 4) = some 0 ∧ (s.part 0).homeVf = 0 ∧ s.ownerOf 0 = some 0 ∧
       ((s.pfSet 0x30000 0x101#64).pfGet 0x30000).getLsbD 8 = true ∧ s.ownerOf 7 = none ∧ ((s.pfSet 0x30038 0x100#64).pfGet 0x30038).getLsbD 8 = true) ∧
    (let s := commanded 3
     (s 0).partRunning 0 = true ∧ (s 0).cmd 0 = 3 ∧ ((s 0).part 0).owns ((s 0).cmdArg 0) = true ∧ (s 0).cmdArg 0 = 0 ∧
       (s 1).cmdArg 0 = 1 ∧ ((s 1).part 0).owns 1 = true ∧ ((s 1).dploadsEnd 0 1).1 = true ∧ ((s 1).part 0).switch = none ∧ (s 1).openCalls 0 1 = [] ∧
       ((s 9).part 0).owns ((s 9).cmdArg 0) = false ∧ (s 1).partOf (1 / 4) = some 0) ∧
    (let s (r : Option (Nat × Nat)) (l : Nat) (k : List Nat) : State := scanning base (scanReq false r l k)
     (scanReq false none 0 []).bad = true ∧ (s none 0 []).writesOut 0 .sys = false ∧
       ((s none 0 []).scanPages 0 (scanReq false none 0 []) (pagesOf 0x110000 (min 0 (2 ^ 26) / 16))).1.contains .wait = false ∧ ((s none 65536 [16]).part 0).scan = some (scanReq false none 65536 [16]) ∧
       (∀ k ∈ [16], (s none 65536 [16]).mem.poisoned (k * 65536) 65536 = false) ∧
       (s (some (3, 0)) 0 []).reaches ((scanReq false none 0 []).agent 0) (Acc.store 64) (scanReq false none 0 []).status (.mem (tk 0x40)) ∧
       isHostKey (tk 0x40) = false ∧ isHostKey (tk 0x40 + 8) = false) ∧
    (let s := base.pfSet 0x10000 2#64
     s.inService = true ∧ (s.part 0).owns 8 = false ∧ (s.partRunning 0 && (s.part 0).owns 1 && s.vfInUse 0 1) = false) ∧
    (let s := replayed
     s.replaying 0 = true ∧ (s.pfGet (partBase 0 + 0xa18)).toNat = 0 ∧ 64 ≤ (s.pfGet (partBase 0 + 0xa10)).toNat ∧
       (s.part 0).dpaIn (s.rPos 0) 64 = true ∧ (s.part 0).dpaKey (s.rPos 0) = 0x200000 ∧ s.mem.num 0x200000 1 = 1 ∧
       s.mem.num 0x200008 8 ≤ s.tsOf 0 ∧ s.mem.num 0x200004 4 = 8 ∧ (s.part 0).dpaIn 0x300000 8 = true ∧
       (s.pfSet (partBase 0 + 0xa18) 64#64).sealedRange 0x300000 8 = false) := by decide +kernel
/-- A request of page 16 of PASID 0 in the bulkhead of `base`, held by the current context; a code range; an invalidation. -/
def requested (st : Nat) (stale : Bool) : State :=
  (pt base fun p => { p with tags := [{ tag := 0, pasid := 0, epoch := false, used := 0 }], invals := [{ pasid := 0, bound := some 5 }] }).modBulk 0 fun b =>
    { b with reqs := [{ pasid := 0, vpage := 16, write := false, st := st, stale := stale, holders := [.ctx 0 1, .hint], asked := [(.ctx 0 1, 0x100000#64)], port := 0 }] }
theorem wit_TranslationEvents : let s := requested 0 false
    let B := s.bulk 0
    let X := s.part 0
    s.ownerOf 0 = some 0 ∧ (∀ i ∈ X.bulks, (s.bulk i).pendRecs = []) ∧ X.heldComps = [] ∧ X.heldStatus = [] ∧
    B.reqs.map (fun q => (q.st, q.stale)) = [(0, false)] ∧ (X.tagOf 0).map (fun t => t.tag) = some 0 ∧ B.tlb.length < 2048 ∧
    (∃ h ∈ [Holder.ctx 0 1, .hint], h.asksPage = true) ∧
    ((requested 0 true).bulk 0).reqs.map (fun q => q.stale) = [true] ∧ (∀ y ∈ ((requested 1 false).bulk 0).reqs, y.st = 1) ∧
    (B.pageReqs < s.pageShare ∧ ({ s with prAlloc := 0 }).pageShare ≤ (requested 1 false |>.bulk 0).pageReqs ∧ (∀ y ∈ B.reqs, y.st ≠ 2) ∧
      (s.ctx 0 1).bound = true) ∧
    X.bulks ≠ [] ∧ X.invals.map (fun i => (i.pasid, i.bound)) = [(0, some 5)] ∧ s.drained 0 (· == 0) 5 = true := by decide +kernel
/-- A module in service with a quote asked for; one whose image is measured; a sample above the cap and one above 105 degrees. -/
def quoting : State := ((State.reset.pfSet 0x10000 2#64).pfSet 0x10220 0x1000#64).pfSet 0x10228 1#64
def gateable : State := { un base fun u => { u with idleAt := 0 } with ts := 1000000 }
theorem wit_ManagementEvents :
    (quoting.inService = true ∧ (quoting.pfGet 0x10228).getLsbD 0 = true ∧ quoting.portUp.any id = true ∧
      (quoting.meas 0 ++ quoting.meas 1 ++ quoting.meas 2).length = 192) ∧
    ({ State.reset with booting := true }).booting = true ∧ (1000 ≤ bitsOf (2000#64) 0 12 ∧ bitsOf (2000#64) 0 12 ≤ 2800) ∧
    2800 < bitsOf (2801#64) 0 12 ∧
    (decide (bitsOf ((State.reset.pfSet 0x10018 2801#64).pfGet 0x10010) 0 12 < bitsOf ((State.reset.pfSet 0x10018 2801#64).pfGet 0x10018) 0 12) =
      true) ∧ (∀ i, i < 6 → quoting.ownerOf (6 * 1 + i) = none) ∧
    (let s := { gateable with cores := [] , agenda := [] }
     let s := s.setSlot 0 1 { Rec.empty with tid := 0x100#32 }
     (s.partOf (0 / 8)).isSome = true ∧ s.clusterWork 0 = false ∧ (s.unit 0).idleAt + 1000000 ≤ s.ts ∧
       (∀ i, i < 4 → ∀ c, c < 16 → (s.ctx i c).bound = false)) ∧ queuedT.clusterWork 0 = true ∧
    (quoting.busy 0 = false ∧ quoting.pstate 0 = 0 ∧ (quoting.part 0).bulks = [] ∧ (asking 1 0).busy 0 = true ∧
      (base.pfSet 0x10000 2#64).pstate 0 ≠ 0 ∧ (base.pfSet 0x10000 2#64).inService = true) := by decide +kernel
theorem wit_StepKeepsMemoryCanonical : base.memOk ∧ (match step base with | .next _ => true | _ => false) = true := by decide +kernel
theorem wit_EncodeDecodeRoundTrip : Instr.wf (.vstm 7 16 31) = true ∧ Instr.isEvent (.vstm 7 16 31) = false ∧
    (match decode [0x81#8, 0x50#8, 0#8, 0#8] with | .ok _ => true | .error _ => false) = true := by decide +kernel
/-- The context of `base` 64 bytes from the start of its range, at an ADDI; its core's cycle next; an event next; nothing, but the
core busy, or no context that can issue. -/
def stepping (a : List Turn) : State :=
  { (base.modMem fun m => m.setBytes 64 (encode (.addi 3 3 5))).modCur fun c => { c with pc := 64 } with agenda := a }
theorem wit_StepRunsDecoded : let s := stepping []
    let cycle (w : State) : State := (w.modCore 0 fun y => { y with cycle := y.cycle + 1, perfWas := y.perf }).count 0 1 none 1
    let picked (v : State) : Option Nat := (rotation 0 (v.core 0).rot).find? fun c => v.ready 0 c && v.spaced 0 c
    let issues (w : State) : Bool := picked (cycle w) == some 1
    s.homeDue = none ∧ ({ s with agenda := [.cycle 0] }).homeDue = none ∧
    (let q : HomeReq := { lo := 0x100000, hi := 0x100040, who := .outside (.host 0 0x100000 (.write [1#8] false)), sent := false, served := false }
     (s.modBulk 0 fun b => { b with homeQ := [q] }).homeDue = some (0, 0, .host 0 0x100000 (.write [1#8] false))) ∧
    (let u := s.modCur fun c => { c with pc := 65536 }
     (u.part 0).rangeOf (u.pasid 0 0) 65536 = none ∧ u.fetch 0 1 = .fault 0x04 ∧ (u.nextIssue 0).isSome = true) ∧
    (let u := s.modMem fun m => m.setByte (65536 + 4) 1#8
     ((u.part 0).rangeOf (u.pasid 0 0) 64).map (fun g => g.marked u.mem 64) = some true ∧ u.fetch 0 1 = .fault 0x05) ∧
    (match (s.part 0).rangeOf (s.pasid 0 0) 64 with
     | some g => !g.marked s.mem 64 && (match decode (g.bytes s.mem 64) with | .ok r => r == (.addi 3 3 5, 4) | .error _ => false)
     | none => false) = true ∧
    s.fetch 0 1 = .instr (.addi 3 3 5) 4 ∧ (s.core 0).perf = [] ∧ (s.core 0).busy = 0 ∧ issues s = true ∧
    (s.cur.1 = 0 ∧ s.agenda = [] ∧ (s.nextIssue 0).isSome = true ∧ ((s.nextIssue 0).map fun t => issues (s.idleTo 0 t)) = some true) ∧
    (let u := s.modCore 0 fun y => { y with busy := 3 }
     (u.nextIssue 0).isSome = true ∧ ((u.nextIssue 0).map fun t => issues (u.idleTo 0 t)) = some true) ∧
    (let w := s.modCur fun c => { c with wait := .grain }
     let p : Producer := { pc := 0, seq := 1, dest := .g 3, op := .load 0 8 false, st := .valueG 7, post := none, sc := none }
     w.nextIssue 0 = none ∧ w.nextResult 0 = none ∧ w.nextSuspension 0 = none ∧
     (w.modCur fun c => { c with inflight := [p] }).nextResult 0 = some (1, 0) ∧
     (w.modCur fun c => { c with susp := some .endT }).nextSuspension 0 = some 1) ∧
    Instr.isEvent (.flitReplay 2) = true ∧ Instr.wf (.flitReplay 2) = true := by
  decide +kernel

/-! Words and results that the spec's worked examples and tables give. -/

/-- Words of the worked examples of chapters 2, 5, 6, 8, 17 and the programs of chapters 18-23, as evas encodes them there. -/
theorem test_words_scalar : word 0x02000391#32 = some (.movi 7 0x100) ∧ word 0x44000393#32 = some (.lis 7 0x2200) ∧
    word 0x00120417#32 = some (.beq 8 0 9) ∧ parcel 0x0c14#16 = some (.pool 3) ∧ parcel 0xfd04#16 = some (.addiS 8 (-1)) ∧
    parcel 0x001c#16 = some .endThread ∧ parcel 0x0012#16 = some .once ∧ word 0x008004a9#32 = some (.rdts 9) ∧
    word 0x01400029#32 = some .yieldG ∧ word 0x0006d603#32 = some (.mul 12 13 3) ∧ word 0xffe60499#32 = some (.bne 9 0 (-13)) ∧
    word 0x82007415#32 = some (.fcvt .if_ .f32 .rne 8 7) := by decide +kernel
theorem test_words_memory : word 0x0206242b#32 = some (.ld .d .plain .core 8 2 2) ∧ word 0x0006742f#32 = some (.st .d .plain .core 8 7 0) ∧
    word 0x006e65ab#32 = some (.ld .d .acq .part 11 6 0) ∧ word 0x6002442b#32 = some (.ld .h .plain .core 8 4 0x60) ∧
    word 0xb812603b#32 = some (.amoAdd true .rel .part 0 6 9) ∧ word 0xd81474bb#32 = some (.amoAdd true .rel .sys 9 7 10) ∧
    word 0x0400724b#32 = some (.vld .plain .core 4 7 4) ∧ word 0x0f028acb#32 = some (.vst .plain .core 21 8 15) := by decide +kernel
theorem test_words_vector : word 0x088060c9#32 = some (.vbcast .w 1 6) ∧ word 0x280070c9#32 = some (.vlane 0 1 7) ∧
    word 0x10001449#32 = some (.vred .fadd 8 1) ∧ word 0x604850c3#32 = some (.vfmaBcast 3 .f32 1 1 5 4) ∧
    word 0x20145343#32 = some (.vfmaBcast 1 .f32 0 6 5 10) ∧ word 0x00004053#32 = some (.xclr false 4 0) ∧
    word 0x08424053#32 = some (.xadd false .vf32 4 1) ∧ word 0x00c044d3#32 = some (.xrnd false .f32 .rne 9 4) := by decide +kernel
theorem test_words_engine :
    word 0x3216a4d5#32 = some (.dpload { dec := false, scope := .part, rel := false, acq := false } 9 10 11) ∧
    word 0x350204d5#32 = some (.mdrain { dec := false, scope := .part, rel := false, acq := true } 9 1) ∧
    word 0x108004d5#32 = some (.mzero { dec := false, scope := .clu, rel := false, acq := false } 9 0) ∧
    word 0xb40004d7#32 = some (.cpy { dec := true, scope := .part, rel := false, acq := true } 9) ∧
    word 0x011484d7#32 = some (.gate 9 8 10) ∧ word 0x0180c0d5#32 = some (.accrd 1 0 12) ∧ word 0x014204d5#32 = some (.mdres 9 1) ∧
    word 0x01c20555#32 = some (.mstat 10 1) ∧ word 0x014054b9#32 = some (.gjoin 9 5) ∧ word 0x01d054b9#32 = some (.gload 9 5 8) := by
  decide +kernel
theorem test_words_threads : word 0x000064d9#32 = some (.watch 9 6) ∧ word 0x044004d9#32 = some (.unwatchAll 9) ∧
    word 0x008074db#32 = some (.recv 9 7) ∧ word 0x009c84dd#32 = some (.tread 9 8 14) ∧ word 0x010084dd#32 = some (.treap 9 8) ∧
    word 0x004084dd#32 = some (.tstart 9 8) ∧ word 0x014064dd#32 = some (.tstat 9 6) ∧ word 0x004064df#32 = some (.iter 9 6) ∧
    word 0x0440005f#32 = some .iterStep := by decide +kernel

/-- A long-latency result: on its way, or written. -/
def landed (s : State) (d : GReg) : Word := match s.cc.inflight.map fun p => p.st with | [ProdState.valueG w] => w | _ => s.g d
/-- R101: 7 / 0, 7 rem 0, −2^63 / −1, and 7 rem −2 (R100). -/
theorem test_div_by_zero : (run (gs base [(1, 7#64)]) (.div 3 1 2)).g 3 = BitVec.allOnes 64 ∧
    (run (gs base [(1, 7#64)]) (.rem 3 1 2)).g 3 = 7#64 := by decide +kernel
theorem test_div_overflow : let s := gs base [(1, 0x8000000000000000#64), (2, 0xffffffffffffffff#64)]
    (run s (.div 3 1 2)).g 3 = 0x8000000000000000#64 ∧ (run s (.rem 3 1 2)).g 3 = 0#64 := by decide +kernel
theorem test_rem_sign : (run (gs base [(1, 7#64), (2, 0xfffffffffffffffe#64)]) (.rem 3 1 2)).g 3 = 1#64 := by decide +kernel
theorem test_addi_wraps : let t := run (gs base [(1, 0xffffffffffffffff#64)]) (.addi 1 1 1); t.g 1 = 0#64 ∧ t.pc = 4#64 := by
  decide +kernel
theorem test_g0_reads_zero : (run (gs base [(1, 9#64)]) (.addi 0 1 1)).g 0 = 0#64 := by decide +kernel
/-- The last chunk of the LI of chapter 2's example. -/
theorem test_lis_chunk : (run (gs base [(7, 0x800000#64)]) (.lis 7 0x2200)).g 7 = 0x4000002200#64 := by decide +kernel
/-- A call from 0 by −2 parcels links the next word (R108). -/
theorem test_jal_links : let t := run base (.jal (-2)); t.g 31 = 4#64 ∧ t.pc = canon (0#64 - 4#64) := by decide +kernel
/-- FP64 1.0 / −0 is −∞ and records a division by zero (R107, R174). -/
theorem test_fdiv_zero : let t := run (gs base [(1, 0x3ff0000000000000#64), (2, 0x8000000000000000#64)]) (.fdiv .f64 .rne 3 1 2)
    t.g 3 = 0xfff0000000000000#64 ∧ t.cc.regs.env = 8#64 := by decide +kernel
/-- VRED.fadd of chapter 6's example: 16,777,230. -/
def twosum : Vec := BitVec.ofNat 512 (0x4b800000 + ((List.range 15).map fun i => 0x3f800000 * 2 ^ (32 * (i + 1))).sum)
theorem test_vred_tree : (run (vs base [(1, twosum)]) (.vred .fadd 8 1)).g 8 = 0x4b800007#64 := by decide +kernel
/-- The same lanes into a basin with b 0, and its rounding: W 0x100_000f, then 16,777,232. -/
theorem test_basin_adds : (run (vs (gs base [(4, near 0x1000)]) [(1, twosum)]) (.xadd false .vf32 4 1)).mem.num (tk 0x1000) 48 = 0x100000f := by
  decide +kernel
theorem test_basin_rounds :
    landed (run (words (gs base [(4, near 0x1000)]) 0x1000 [0x100000f#64]) (.xrnd false .f32 .rne 9 4)) 9 = 0x4b800008#64 := by decide +kernel
/-- A pair of chapter 3's: 3.0 of lane 2 times 1.0 plus 0.5 in every lane; lane 5 looked at. -/
theorem test_vfma_broadcast :
    elem 32 ((run (vs base [(0, BitVec.ofNat 512 (0x40400000 * 2 ^ 64)), (13, BitVec.ofNat 512 (0x3f800000 * 2 ^ 160)),
      (7, BitVec.ofNat 512 (0x3f000000 * 2 ^ 160))]) (.vfmaBcast 0 .f32 2 7 0 13)).v 7) 5 = 0x40600000 := by decide +kernel
/-- Half-word lanes wrap (R125). -/
theorem test_vaddi_wraps : elem 16 ((run (vs base [(1, 0xffff#512), (2, 2#512)]) (.vaddI .h 3 1 2)).v 3) 0 = 1 := by decide +kernel

/-- Loads and stores in the own tarn: a store of the low half-word, and a sign-extended load (R161). -/
theorem test_store_half : let t := run (gs base [(1, near 0), (2, 0x1234fffe#64)]) (.st .h .plain .core 2 1 1)
    t.mem.num (tk 2) 4 = 0xfffe := by decide +kernel
theorem test_load_sign :
    landed (run (dev (gs base [(1, near 0)]) (tk 0) [0#8, 0x80#8]) (.lds .h .plain .core 2 1 0)) 2 = 0xffffffffffff8000#64 := by decide +kernel
/-- Addresses of chapter 7's example: 0x10 ADDR_NONCANON, and 0x16 WINDOW_DENIED beyond the partition's clusters. -/
theorem test_noncanonical : (base.access base.ag (Acc.load 8) 0x0100000000000000#64).1 = .fault 0x10 0#64 := by decide +kernel
theorem test_window_denied : (base.access base.ag (Acc.load 8) 0xfffe000003000000#64).1 = .fault 0x16 0#64 ∧
    (base.access base.ag (Acc.load 8) 0xfffe000000500000#64).1 = .fault 0x16 0#64 := by decide +kernel
theorem test_channel : channelOf 0x2600 = 1 := by decide +kernel
/-- AMO.MIN.w is signed (R171): −1 stays against 1. CAS stores where the word equals g(d). -/
theorem test_amo_min : (run (dev (gs base [(1, near 0), (2, 1#64)]) (tk 0) (leBytes 4 0xffffffff)) (.amoMin false .plain .core 3 1 2)).mem.num (tk 0) 8 =
    0xffffffff := by decide +kernel
theorem test_cas : let s := dev (gs base [(1, near 0), (2, 9#64), (3, 5#64)]) (tk 0) (leBytes 8 5)
    (run s (.cas true .plain .core 3 1 2)).mem.num (tk 0) 8 = 9 ∧ (run (gs s [(3, 4#64)]) (.cas true .plain .core 3 1 2)).mem.num (tk 0) 8 = 5 := by
  decide +kernel
/-- LDFE empties the word it reads, STEF fills it (R166). -/
theorem test_full_empty : let t := run (gs base [(1, near 0)]) (.ldfe .plain .core 2 1 0)
    t.mem.full (tk 0) = false ∧ (run (gs t [(3, 7#64)]) (.stef .plain .core 3 1 0)).mem.full (tk 0) = true := by decide +kernel

/-- Chapter 4's example: 2^24 and 31 ones in BF16 with kc 16 give 2^24 + 32. -/
theorem test_mma_chunks :
    let c : ECmd := { mcmd 0 .array with e := [(1, 0x40#64), (3, BitVec.ofNat 64 (31 * 2 ^ 4 + 1 * 2 ^ 17 + 1 * 2 ^ 21)), (5, near 0x400)] }
    let s := dev (un base fun u => { u with mq := [c] }) (tk 0)
      (leBytes 2 0x4b80 ++ (List.replicate 31 (leBytes 2 0x3f80)).flatten ++ (List.replicate 32 (leBytes 2 0x3f80)).flatten)
    (match execMatrixCommandComplete 0 s with | .next t => (t.unit 0).elem 0 3 5 | _ => 0#32) = 0x4b800010#32 := by decide +kernel
/-- Chapter 10's example: MSTAT of a tile stopped at row 9, block 1, program 5. -/
theorem test_mstat : (run (un base fun u => { u with stat := [(1, { lock := false, fault := true, crow := 9, cblk := 1, prog := 5 })] }) (.mstat 10 1)).g 10 =
    0x5492#64 := by decide +kernel
/-- And its program relu16 on elements −1, 0 and 1 with a bias of 0.5: BF16 0, 0.5 and 1.5. -/
theorem test_drain_program :
    let prog : Vec := BitVec.ofNat 512 (0x01080000 + 0x191e0000 * 2 ^ 32 + 0x5a100002 * 2 ^ 64 + 0x68200001 * 2 ^ 96 + 0x80000000 * 2 ^ 128)
    let r : DrainRun := { cmd := mcmd 4 .drain, prog := prog, desc := 0, params := List.replicate 256 0x3f000000#32, coefs := [], row := 0, blk := 0 }
    let u : Clus := { Clus.empty with tiles := [(0, 0xbf800000#32), (2, 0x3f800000#32)] }
    (r.block u 0 0).take 3 = [(0, 0, 2, 0), (0, 2, 2, 0x3f00), (0, 4, 2, 0x3fc0)] := by decide +kernel

/-- Chapter 17's example: D's claim of 3 at NEXT 18 of a 10 by 3 nest starts at (8, 1); its second ITER.step gives (0, 2). -/
def nest2 (next : Nat) : State :=
  let s := run (es (gs base [(6, near 0)]) [(0, 0x000000030000000a#64), (1, 0x0000000400000001#64), (2, 0x0000001000000002#64)]) (.nest 2 6)
  dev s (tk 0) (leBytes 8 next)
def claimed (s : State) : Option (Nat × Nat × Nat) :=
  let t := run s (.iter 9 6)
  let c (n : Nat) : Nat := bitsOf (t.cc.regs.getI n) 0 32
  some ((t.g 9).toNat, c 0, c 1)
theorem test_iter_claims : claimed (nest2 0) = some (8, 0, 0) ∧ claimed (nest2 18) = some (3, 8, 1) := by decide +kernel
theorem test_iter_step : let s := base.modCur fun c => c.modRegs fun r =>
      ((r.setI 0 0x0000000a00000009#64).setI 1 0x0000000300000001#64).setI 2 0x0000000100000000#64
    let t := run s .iterStep
    bitsOf (t.cc.regs.getI 0) 0 32 = 0 ∧ bitsOf (t.cc.regs.getI 1) 0 32 = 2 ∧ bitsOf (t.cc.regs.getI 2) 0 32 = 0 := by decide +kernel
/-- The thread id of chapter 1's example. -/
theorem test_thread_id : mkTid (coreKey 30 5 2) 17 4#8 = 0x03d61104#32 := by decide +kernel
/-- A branch into a pool is not fetched: fault 0x05 (chapter 2's example); its bitmap's second byte 0x3a marks parcels 9, 11, 12, 13. -/
theorem test_pool_entry : let s := (dev base 0x10001 [0x3a#8]).modCur fun c => { c with pc := 0x18#64 }
    s.fetch 0 1 = .fault 0x05 := by decide +kernel
/-- END of a launched thread with autoreap frees the record (R22). -/
theorem test_end : let s := me base fun r => { r with autoreap := true, launch := true }
    let t := run s .endThread
    (t.slotRec 0 1).state = .free ∧ (t.ctx 0 1).bound = false := by decide +kernel

/-- Device events: PWRCAP keeps its limits (R405); a bulkhead that fails its test stays out (R344). -/
theorem test_pwrcap : (match execPwrcapWrite 999#64 quoting with | .next t => t.pfGet 0x10010 | _ => 0#64) = 2800#64 ∧
    (match execPwrcapWrite 1000#64 quoting with | .next t => t.pfGet 0x10010 | _ => 0#64) = 1000#64 := by decide +kernel
theorem test_host_atomic : (match execHostAtomicop 0 0x100004 .fetchAdd false 3#64 0#64 (dev base 0x100004 (leBytes 4 0xffffffff)) with
    | .next t => t.mem.num 0x100000 16 | _ => 7) = 2 * 2 ^ 32 := by decide +kernel

/-- evas: the names R55 refuses, the modifiers' order (R57), LI of a value of 17 bits (R59), an expression (R58), a pool and its
padding between instructions (R60). -/
theorem test_evas_names : isName "fill" = false ∧ isName "G7" = false ∧ isName "END" = false ∧ isName "1a" = false ∧
    isName "_x1" = true ∧ isName "g32" = true := by decide +kernel
theorem test_evas_mods : (readMods [.size .w, .order .acq, .scope .blk]).isSome ∧ readMods [.scope .blk] = none ∧
    readMods [.scope .blk, .order .acq] = none := by decide +kernel
theorem test_evas_li : expandLi 5 0x12345#64 = [.movi 5 2#15, .lis 5 0x2345#15] ∧ expandLi 6 0xfffffffffffffffb#64 = [.movi 6 0x7ffb#15] := by
  decide +kernel
theorem test_evas_text : (evasPass [(".text", 0x100000#64)]
      [.code (.beq 0 0 0) (some (.name "t")), .pool [.data 2 [.div (.num 0xfffffffffffffff9#64) (.num 2#64)], .data 1 [.num 9#64]],
       .datum (.label "t"), .code .endThread none] { draft := false, vals := [("t", 0x10000a#64)], slots := [] }).map
      (fun a => (a.sec.map fun s => s.bytes.take 12, a.names.val "t")) =
    some (some ([0x17, 0, 0x0a, 0, 0x14, 8, 0xfd, 0xff, 9, 0, 0x1c, 0].map (BitVec.ofNat 8)), some 0x10000a#64) := by decide +kernel

end Sys2Proof.Tests
end

section
/-! What a write and all that follows it leave of the contexts and the clusters' units: every register, PC and tile. -/

namespace Sys2Proof.Machine

/-- Every context keeps its registers, its PC and its count of retired instructions, and every cluster its tiles and
Wellheads. -/
structure ContextsKept (s t : State) : Prop where
  regs : ∀ k c, (t.ctx k c).regs = (s.ctx k c).regs
  pc : ∀ k c, (t.ctx k c).pc = (s.ctx k c).pc
  retired : ∀ k c, (t.ctx k c).retired = (s.ctx k c).retired
  tiles : ∀ u, (t.unit u).tiles = (s.unit u).tiles
  wellhead : ∀ u, (t.unit u).wellhead = (s.unit u).wellhead

theorem ContextsKept.refl (s : State) : ContextsKept s s :=
  ⟨fun _ _ => rfl, fun _ _ => rfl, fun _ _ => rfl, fun _ => rfl, fun _ => rfl⟩

theorem ContextsKept.trans {s t u : State} (h : ContextsKept s t) (h' : ContextsKept t u) : ContextsKept s u where
  regs k c := (h'.regs k c).trans (h.regs k c)
  pc k c := (h'.pc k c).trans (h.pc k c)
  retired k c := (h'.retired k c).trans (h.retired k c)
  tiles v := (h'.tiles v).trans (h.tiles v)
  wellhead v := (h'.wellhead v).trans (h.wellhead v)

theorem ContextsKept.foldl {α : Type} (f : State → α → State) (hf : ∀ s a, ContextsKept s (f s a)) (l : List α) (s : State) :
    ContextsKept s (l.foldl f s) :=
  foldl_keeps (fun t => ContextsKept s t) f (fun t a h => h.trans (hf t a)) l s (.refl s)

/-- A change of neither cores nor units. -/
theorem contextsKept_of_eq {s t : State} (hc : t.cores = s.cores) (hu : t.units = s.units) : ContextsKept s t := by
  constructor <;> intros <;> simp only [State.ctx, State.core, State.unit, hc, hu]

theorem contextsKept_modCore (s : State) (k : Nat) (f : Core → Core) (hf : (f (s.core k)).ctxs = (s.core k).ctxs) :
    ContextsKept s (s.modCore k f) := by
  have h : ∀ j c, (s.modCore k f).ctx j c = s.ctx j c := by
    intro j c
    by_cases hj : j = k
    · subst hj; simp only [State.ctx, State.core_modCore_same, hf]
    · simp only [State.ctx, State.core_modCore_other _ _ _ _ hj]
  exact ⟨fun j c => by rw [h], fun j c => by rw [h], fun j c => by rw [h], fun _ => rfl, fun _ => rfl⟩

theorem contextsKept_modUnit (s : State) (u : Nat) (f : Clus → Clus) (ht : (f (s.unit u)).tiles = (s.unit u).tiles)
    (hw : (f (s.unit u)).wellhead = (s.unit u).wellhead) : ContextsKept s (s.modUnit u f) := by
  refine ⟨fun _ _ => rfl, fun _ _ => rfl, fun _ _ => rfl, fun v => ?_, fun v => ?_⟩ <;> by_cases hv : v = u
  · subst hv; rw [State.unit_modUnit_same, ht]
  · rw [State.unit_modUnit_other _ _ _ _ hv]
  · subst hv; rw [State.unit_modUnit_same, hw]
  · rw [State.unit_modUnit_other _ _ _ _ hv]

/-- What every entry of a finite map keeps, every read keeps. -/
theorem fget_map_keeps {β γ : Type} (d : β) (φ : β → γ) (F : Nat × β → Nat × β) (hkey : ∀ p, (F p).1 = p.1)
    (hφ : ∀ p, φ (F p).2 = φ p.2) (m : FMap β) (k : Nat) : φ (fget d (m.map F) k) = φ (fget d m k) := by
  induction m with
  | nil => rfl
  | cons p m ih =>
    rw [List.map_cons, fget, fget, hkey]
    split
    · exact hφ p
    · exact ih

theorem Ctx.unpark_keeps (w : Nat) (c : Ctx) :
    (c.unpark w).regs = c.regs ∧ (c.unpark w).pc = c.pc ∧ (c.unpark w).retired = c.retired := by
  unfold Ctx.unpark; split <;> exact ⟨rfl, rfl, rfl⟩

theorem contextsKept_wordWake (s : State) (w : Nat) : ContextsKept s (s.wordWake w) := by
  have key {γ : Type} (φ : Ctx → γ) (hφ : ∀ c : Ctx, φ (c.unpark w) = φ c) (k c : Nat) :
      φ ((s.wordWake w).ctx k c) = φ (s.ctx k c) := by
    refine fget_map_keeps Core.empty (fun x => φ (fget Ctx.empty x.ctxs c))
      (fun x => (x.1, { x.2 with ctxs := x.2.ctxs.map fun y => (y.1, y.2.unpark w) })) (fun _ => rfl) (fun p => ?_) s.cores k
    exact fget_map_keeps Ctx.empty φ (fun x => (x.1, x.2.unpark w)) (fun _ => rfl) (fun q => hφ q.2) p.2.ctxs c
  exact ⟨key Ctx.regs fun c => (c.unpark_keeps w).1, key Ctx.pc fun c => (c.unpark_keeps w).2.1,
    key Ctx.retired fun c => (c.unpark_keeps w).2.2, fun _ => rfl, fun _ => rfl⟩

theorem contextsKept_leaveQueues (s : State) (t : W32) : ContextsKept s (s.leaveQueues t) := by
  refine ⟨fun _ _ => rfl, fun _ _ => rfl, fun _ _ => rfl, fun u => ?_, fun u => ?_⟩
  · exact fget_map_keeps Clus.empty Clus.tiles _ (fun p => by split <;> rfl) (fun p => by split <;> rfl) s.units u
  · exact fget_map_keeps Clus.empty Clus.wellhead _ (fun p => by split <;> rfl) (fun p => by split <;> rfl) s.units u

/-! The operations of a wake, each on records, queues and counters only. -/

theorem contextsKept_modBulk (s : State) (b : Nat) (f : Bulk → Bulk) : ContextsKept s (s.modBulk b f) :=
  contextsKept_of_eq rfl rfl
theorem contextsKept_modMem (s : State) (f : Mem → Mem) : ContextsKept s (s.modMem f) := contextsKept_of_eq rfl rfl
theorem contextsKept_setSlot (s : State) (core slot : Nat) (r : Rec) : ContextsKept s (s.setSlot core slot r) :=
  contextsKept_modCore _ _ _ rfl
theorem contextsKept_modRec (s : State) (t : W32) (f : Rec → Rec) : ContextsKept s (s.modRec t f) := by
  unfold State.modRec; split
  · exact contextsKept_setSlot _ _ _ _
  · exact contextsKept_modBulk _ _ _
theorem contextsKept_joinQueue (s : State) (t : W32) : ContextsKept s (s.joinQueue t) := by
  unfold State.joinQueue
  split
  · exact .refl s
  · split
    · exact .refl s
    · exact (contextsKept_modRec _ _ _).trans (contextsKept_modUnit _ _ _ rfl rfl)
theorem contextsKept_fillSlot (s : State) (r : Rec) : ContextsKept s (s.fillSlot r) := by
  unfold State.fillSlot
  exact ((contextsKept_modBulk _ _ _).trans (contextsKept_setSlot _ _ _ _)).trans (contextsKept_joinQueue _ _)
theorem contextsKept_trySwap (s : State) (core slot : Nat) : ContextsKept s (s.trySwap core slot) := by
  unfold State.trySwap
  split
  · exact .refl s
  · dsimp only
    split
    · exact contextsKept_fillSlot s _
    · split
      · exact ((contextsKept_leaveQueues _ _).trans (contextsKept_fillSlot _ _)).trans (contextsKept_modBulk _ _ _)
      · exact .refl s
theorem contextsKept_makeReady (s : State) (t : W32) : ContextsKept s (s.makeReady t) := by
  unfold State.makeReady
  dsimp only
  split
  · exact (contextsKept_modRec _ _ _).trans (contextsKept_joinQueue _ _)
  · exact (contextsKept_modRec _ _ _).trans (contextsKept_trySwap _ _ _)
theorem contextsKept_count (s : State) (core ev : Nat) (c : Option Nat) (n : Nat) : ContextsKept s (s.count core ev c n) := by
  unfold State.count; split
  · exact .refl s
  · exact contextsKept_modCore _ _ _ rfl
theorem contextsKept_hit (s : State) (t : W32) (n : Nat) : ContextsKept s (s.hit t n) := by
  have h (c) (f) : ContextsKept s ((s.count c 11 none 1).modRec t f) :=
    (contextsKept_count _ _ _ _ _).trans (contextsKept_modRec _ _ _)
  unfold State.hit
  split
  · exact .refl s
  · split
    · dsimp only
      split
      · exact (h _ _).trans (contextsKept_makeReady _ _)
      · exact h _ _
    · exact .refl s
theorem contextsKept_coarseHit (s : State) (b : Nat) : ContextsKept s (s.coarseHit b) :=
  .foldl _ (fun _ _ => (contextsKept_modRec _ _ _).trans (contextsKept_hit _ _ _)) _ _
theorem contextsKept_dropWatcher (s : State) (b line : Nat) (w : Watcher) : ContextsKept s (s.dropWatcher b line w) :=
  contextsKept_of_eq rfl rfl
theorem contextsKept_fireGateAt (s : State) (u id : Nat) : ContextsKept s (s.fireGateAt u id) :=
  have h := contextsKept_modUnit s u
    (fun x => { x with gates := fireGate id (s.unit u).gateSeq x.gates, gateSeq := (s.unit u).gateSeq + 1 }) rfl rfl
  h.trans (contextsKept_of_eq rfl rfl)
theorem contextsKept_watcherAct (s : State) (b line k n : Nat) (w : Watcher) : ContextsKept s (s.watcherAct b line k n w) := by
  unfold State.watcherAct
  split
  · exact contextsKept_hit _ _ _
  · split
    · exact .refl s
    · split
      · exact (contextsKept_fireGateAt _ _ _).trans (contextsKept_dropWatcher _ _ _ _)
      · exact .refl s
theorem contextsKept_lineWritten (s : State) (b line k n : Nat) : ContextsKept s (s.lineWritten b line k n) := by
  have h (l : List Watcher) : ContextsKept s (l.foldl (fun s w => s.watcherAct b line k n w) s) :=
    .foldl _ (fun _ _ => contextsKept_watcherAct _ _ _ _ _ _) _ _
  unfold State.lineWritten
  dsimp only
  split
  · exact (h _).trans (contextsKept_coarseHit _ _)
  · exact h _
theorem contextsKept_touchWord (s : State) (k : Nat) : ContextsKept s (s.touchWord k) := by
  unfold State.touchWord
  split
  · exact (contextsKept_modMem _ _).trans (contextsKept_wordWake _ _)
  · exact .refl s
theorem contextsKept_tailWritten (s : State) (k n : Nat) : ContextsKept s (s.tailWritten k n) := contextsKept_of_eq rfl rfl
theorem contextsKept_written (s : State) (k n : Nat) : ContextsKept s (s.written k n) := by
  unfold State.written
  split
  · exact .refl s
  · exact ((ContextsKept.foldl _ (fun _ _ => contextsKept_touchWord _ _) _ _).trans (contextsKept_tailWritten _ _ _)).trans
      (.foldl _ (fun _ _ => .foldl _ (fun _ _ => contextsKept_lineWritten _ _ _ _ _) _ _) _ _)

/-- The one write of State wakes threads and contexts, and changes no register. -/
theorem contextsKept_writeMem (s : State) (k : Nat) (bs : List Byte) (p : Bool) : ContextsKept s (s.writeMem k bs p) :=
  (contextsKept_modMem _ _).trans (contextsKept_written _ _ _)

/-- An instruction that writes bytes and retires: they are stored, and nothing else of a program's state changes. -/
theorem writeMem_done_spec (s : State) (k : Nat) (bs : List Byte) (p : Bool) :
    Stored s (s.writeMem k bs p).done k bs ∧ Retired s (s.writeMem k bs p).done 4 fun r => r := by
  obtain ⟨hin, hout, hfull, hpf, hcur, -⟩ := writeMem_spec s k bs p
  have hk := contextsKept_writeMem s k bs p
  generalize s.writeMem k bs p = u at *
  have hcc : u.cc = u.ctx s.cur.1 s.cur.2 := by rw [State.cc, hcur]
  have hdone : u.done.cc = u.after 4 fun r => r := (adv_spec u 4).2
  refine ⟨⟨hin, hout, hfull, hpf, hcur, fun j c hjc => ?_, fun v => ⟨hk.tiles v, hk.wellhead v⟩⟩, ?_⟩
  · have hkeep : u.done.ctx j c = u.ctx j c :=
      State.ctx_modCtx_other _ _ _ _ _ _ fun e => hjc (hcur ▸ Prod.ext e.1 e.2)
    rw [hkeep]
    exact ⟨hk.regs j c, hk.pc j c⟩
  · simp only [Retired, hdone, State.after, Ctx.retire, State.pc, hcc, hk.regs, hk.pc, hk.retired]
    exact ⟨rfl, rfl, rfl⟩

end Sys2Proof.Machine
end

section
/-! Signed numbers in their fields, little-endian bytes, and the basin block that memory holds after its bytes are written (R92). -/

namespace Sys2Proof.Machine

/-! Integers in n bits. -/

theorem int_two_pow_pos (n : Nat) : (0 : Int) < 2 ^ n := by exact_mod_cast Nat.two_pow_pos n

theorem wrap_cast (n : Nat) (x : Int) : (wrap n x : Int) = x % 2 ^ n :=
  Int.toNat_of_nonneg (Int.emod_nonneg _ (Int.ne_of_gt (int_two_pow_pos n)))

theorem wrap_lt (n : Nat) (x : Int) : wrap n x < 2 ^ n := by
  have h : (wrap n x : Int) < 2 ^ n := by
    rw [wrap_cast]; exact Int.emod_lt_of_pos x (int_two_pow_pos n)
  exact_mod_cast h

/-- The signed reading of n + 1 bits is the balanced remainder. -/
theorem signed_eq_bmod (n x : Nat) : signed (n + 1) x = (x : Int).bmod (2 ^ (n + 1)) := by
  have hhalf : ((2 ^ (n + 1) : Nat) + 1 : Int) / 2 = 2 ^ n := by push_cast; omega
  rw [Int.bmod_def, hhalf, signed, Nat.add_sub_cancel]
  push_cast
  congr 1
  exact propext (by norm_cast)

theorem signed_wrap (n : Nat) (x : Int) : signed (n + 1) (wrap (n + 1) x) = x.bmod (2 ^ (n + 1)) := by
  have h := Int.emod_bmod x (2 ^ (n + 1))
  rw [signed_eq_bmod, wrap_cast]
  exact_mod_cast h

/-- x is a signed number of n + 1 bits (R75). -/
def IsSigned (n : Nat) (x : Int) : Prop := -2 ^ n ≤ x ∧ x < 2 ^ n

theorem isSigned_bmod (n : Nat) (x : Int) : IsSigned n (x.bmod (2 ^ (n + 1))) := by
  have hpos : 0 < 2 ^ (n + 1) := Nat.two_pow_pos _
  have hlo := Int.le_bmod (x := x) hpos
  have hhi := Int.bmod_lt (x := x) hpos
  push_cast at hlo hhi
  constructor <;> omega

theorem isSigned_signed (n x : Nat) : IsSigned n (signed (n + 1) x) := by
  rw [signed_eq_bmod]; exact isSigned_bmod n x

/-- A signed number of n + 1 bits survives its encoding. -/
theorem signed_wrap_of_isSigned {n : Nat} {x : Int} (h : IsSigned n x) : signed (n + 1) (wrap (n + 1) x) = x := by
  obtain ⟨hlo, hhi⟩ := h
  rw [signed_wrap]
  refine Int.bmod_eq_of_le ?_ ?_ <;> push_cast <;> omega

/-! Little-endian bytes. -/

@[simp] theorem length_leBytes (n x : Nat) : (leBytes n x).length = n := by
  induction n generalizing x with
  | zero => rfl
  | succ n ih => rw [leBytes, List.length_cons, ih]

theorem leNat_leBytes (n x : Nat) : leNat (leBytes n x) = x % 256 ^ n := by
  induction n generalizing x with
  | zero => exact (Nat.mod_one x).symm
  | succ n ih =>
    rw [leBytes, leNat, ih, BitVec.toNat_ofNat]
    exact ((congrArg (x % ·) (Nat.pow_succ' (m := 256) (n := n))).trans Nat.mod_mul).symm

theorem leNat_leBytes_wrap (n : Nat) (x : Int) : leNat (leBytes n (wrap (8 * n) x)) = wrap (8 * n) x := by
  rw [leNat_leBytes]
  exact Nat.mod_eq_of_lt (Nat.lt_of_lt_of_eq (wrap_lt _ _) (Nat.pow_mul 2 8 n))

theorem Mem.length_bytes (m : Mem) (k n : Nat) : (m.bytes k n).length = n := by
  induction n generalizing k with
  | zero => rfl
  | succ n ih => rw [Mem.bytes, List.length_cons, ih]

theorem Mem.bytes_add (m : Mem) (k a b : Nat) : m.bytes k (a + b) = m.bytes k a ++ m.bytes (k + a) b := by
  induction a generalizing k with
  | zero => rw [Nat.zero_add]; rfl
  | succ a ih => rw [Nat.add_right_comm, Mem.bytes, Mem.bytes, ih, List.cons_append, Nat.add_right_comm, Nat.add_assoc]

/-- Bytes read where two runs were found one after the other. -/
theorem Mem.bytes_of_append {m : Mem} {k a b : Nat} {xs ys : List Byte} (h : m.bytes k (a + b) = xs ++ ys)
    (hx : xs.length = a) : m.bytes k a = xs ∧ m.bytes (k + a) b = ys :=
  List.append_inj (by rw [← Mem.bytes_add, h]) (by rw [Mem.length_bytes, hx])

/-! The basin block. -/

/-- The basin's numbers fit their fields (R92). -/
structure Basin.Fits (b : Basin) : Prop where
  win : IsSigned 383 b.win
  base : IsSigned 15 b.base

theorem Basin.fits_ofMem (m : Mem) (k : Nat) : (Basin.ofMem m k).Fits where
  win := by dsimp only [Basin.ofMem]; exact isSigned_signed 383 _
  base := by dsimp only [Basin.ofMem]; exact isSigned_signed 15 _

theorem Basin.length_bytes (b : Basin) : b.bytes.length = 64 := by
  simp only [Basin.bytes, List.length_append, length_leBytes]

/-- The five bits of a basin's flags byte (R92). -/
theorem basinFlags_bits (o l n p i : Bool) :
    let f := BitVec.ofNat 8 (o.toNat + 2 * l.toNat + 4 * n.toNat + 8 * p.toNat + 16 * i.toNat)
    f.getLsbD 0 = o ∧ f.getLsbD 1 = l ∧ f.getLsbD 2 = n ∧ f.getLsbD 3 = p ∧ f.getLsbD 4 = i := by
  revert o l n p i; decide

/-- A block whose bytes are a basin's holds that basin. -/
theorem Basin.ofMem_of_bytes {m : Mem} {k : Nat} {b : Basin} (hb : b.Fits) (h : m.bytes k 64 = b.bytes) :
    Basin.ofMem m k = b := by
  rw [Basin.bytes, List.append_assoc, List.append_assoc] at h
  obtain ⟨hwin, h⟩ := Mem.bytes_of_append (a := 48) (b := 16) h (length_leBytes _ _)
  obtain ⟨hbase, h⟩ := Mem.bytes_of_append (a := 2) (b := 14) h (length_leBytes _ _)
  obtain ⟨hflags, -⟩ := Mem.bytes_of_append (a := 1) (b := 13) h (length_leBytes _ _)
  have win : signed 384 (m.num k 48) = b.win := by
    rw [Mem.num, hwin, leNat_leBytes_wrap 48]
    exact signed_wrap_of_isSigned hb.win
  have base : signed 16 (m.num (k + 0x30) 2) = b.base := by
    rw [Mem.num, hbase, leNat_leBytes_wrap 2]
    exact signed_wrap_of_isSigned hb.base
  have byte : m.byte (k + 0x32) = _ := (List.cons.inj hflags).1
  obtain ⟨hovf, hloss, hnan, hpinf, hninf⟩ := basinFlags_bits b.ovf b.loss b.nan b.pinf b.ninf
  unfold Basin.ofMem
  dsimp only
  rw [win, base, byte, hovf, hloss, hnan, hpinf, hninf]

/-- An instruction that writes a basin's bytes at k and retires leaves that basin there. -/
theorem basinBecomes_of_write {s : State} {i : Instr} {k : Nat} {n : Basin} {p : Bool} (hn : n.Fits)
    (h : exec i s = .next (s.writeMem k n.bytes p).done) : s.basinBecomes i k n := by
  obtain ⟨hstored, hretired⟩ := writeMem_done_spec s k n.bytes p
  have hbytes := hstored.inside
  rw [Basin.length_bytes] at hbytes
  exact ⟨_, n.bytes, h, n.length_bytes, hstored, hretired, Basin.ofMem_of_bytes hn hbytes⟩

end Sys2Proof.Machine
end

section
/-! Basin arithmetic (R93): what one value does to a basin, and that the order of values shows in OVF alone (R96). -/

namespace Sys2Proof.Machine

theorem signed_wrap_sub_emod (n : Nat) (x : Int) : (signed (n + 1) (wrap (n + 1) x) - x) % 2 ^ (n + 1) = 0 := by
  have h := Int.emod_eq_zero_of_dvd (Int.dvd_bmod_sub_self (x := x) (m := 2 ^ (n + 1)))
  rw [signed_wrap]
  exact_mod_cast h

/-- Wrapping after each of two additions is wrapping after both. -/
theorem signed_wrap_add (n : Nat) (x y : Int) :
    signed (n + 1) (wrap (n + 1) (signed (n + 1) (wrap (n + 1) x) + y)) = signed (n + 1) (wrap (n + 1) (x + y)) := by
  rw [signed_wrap, signed_wrap, signed_wrap, Int.bmod_add_bmod]

/-! The addition of one value (R93). -/

/-- The floor of v × 2^exp / 2^base (R93). -/
def floorQuot (base v exp : Int) : Int := if base ≤ exp then v * 2 ^ (exp - base).toNat else v / 2 ^ (base - exp).toNat
/-- That floor is not the exact quotient (R93). -/
def dropsBits (base v exp : Int) : Bool := decide (exp < base) && decide (v % 2 ^ (base - exp).toNat ≠ 0)

theorem floorQuot_eq (base v exp : Int) : floorQuot base v exp =
    if 0 ≤ exp - base then v * 2 ^ (exp - base).toNat else v / 2 ^ (-(exp - base)).toNat := by
  unfold floorQuot
  by_cases h : base ≤ exp
  · rw [if_pos h, if_pos (by omega)]
  · rw [if_neg h, if_neg (by omega), Int.neg_sub]
theorem dropsBits_eq (base v exp : Int) :
    dropsBits base v exp = (decide (exp - base < 0) && decide (v % 2 ^ (-(exp - base)).toNat ≠ 0)) := by
  have h : exp < base ↔ exp - base < 0 := by omega
  unfold dropsBits
  rw [decide_eq_decide.2 h, Int.neg_sub]

/-- v × 2^exp added to a basin with a valid base (R93). -/
def Basin.plus (b : Basin) (v exp : Int) : Basin :=
  let t := b.win + floorQuot b.base v exp
  { b with
    win := signed 384 (wrap 384 t), loss := b.loss || dropsBits b.base v exp,
    ovf := b.ovf || decide (t < -2 ^ 383) || decide (2 ^ 383 - 1 < t) }

theorem Basin.addFin_eq_plus (b : Basin) (neg : Bool) (man : Nat) (exp : Int) :
    b.addFin neg man exp = b.plus (if neg then -(man : Int) else man) exp := by
  simp only [Basin.addFin, Basin.plus, floorQuot_eq, dropsBits_eq]

theorem Basin.okBase_iff (b : Basin) : b.okBase = true ↔ -1200 ≤ b.base ∧ b.base ≤ 1100 := by
  simp only [Basin.okBase, Bool.and_eq_true, decide_eq_true_eq]

/-- What a basin with a valid base becomes by a value (R93). -/
def Basin.take (b : Basin) : Fv → Basin
  | .nan => { b with nan := true }
  | .inf false => { b with pinf := true }
  | .inf true => { b with ninf := true }
  | .fin neg man exp => b.plus (if neg then -(man : Int) else man) exp

theorem Basin.add_of_bad {b : Basin} (h : b.okBase = false) (x : Fv) : b.add x = { b with nan := true } := by
  unfold Basin.add; rw [if_pos h]
theorem Basin.add_of_ok {b : Basin} (h : b.okBase = true) (x : Fv) : b.add x = b.take x := by
  unfold Basin.add
  rw [if_neg (by rw [h]; decide)]
  match x with
  | .nan | .inf false | .inf true => rfl
  | .fin neg man exp => exact b.addFin_eq_plus neg man exp

/-- A value leaves the base exponent as it is. -/
theorem Basin.okBase_take (b : Basin) (x : Fv) : (b.take x).okBase = b.okBase := by
  match x with
  | .nan | .inf false | .inf true | .fin _ _ _ => rfl

/-- R93's rule for a finite value, as `Obligations.BasinArithmetic` states it. -/
def Basin.Added (B n : Basin) (v exp : Int) : Prop :=
  let y : Int := if B.base ≤ exp then v * 2 ^ (exp - B.base).toNat else v / 2 ^ (B.base - exp).toNat
  let t := B.win + y
  n.base = B.base ∧ n.nan = B.nan ∧ n.pinf = B.pinf ∧ n.ninf = B.ninf ∧
  (n.win - t) % 2 ^ 384 = 0 ∧ -2 ^ 383 ≤ n.win ∧ n.win < 2 ^ 383 ∧
  n.ovf = (B.ovf || decide (t < -2 ^ 383) || decide (2 ^ 383 - 1 < t)) ∧
  n.loss = (B.loss || (decide (exp < B.base) && decide (v % 2 ^ (B.base - exp).toNat ≠ 0)))

theorem Basin.added_plus (B : Basin) (v exp : Int) : B.Added (B.plus v exp) v exp := by
  obtain ⟨hlo, hhi⟩ := isSigned_signed 383 (wrap 384 (B.win + floorQuot B.base v exp))
  dsimp only [Basin.Added, Basin.plus]
  exact ⟨rfl, rfl, rfl, rfl, signed_wrap_sub_emod 383 _, hlo, hhi, rfl, rfl⟩

/-- R93's rule for any value, as `Obligations.BasinArithmetic` states it. -/
def Basin.Sum (B n : Basin) (x : Fv) : Prop :=
  (¬(-1200 ≤ B.base ∧ B.base ≤ 1100) → n = { B with nan := true }) ∧
  (-1200 ≤ B.base ∧ B.base ≤ 1100 →
    (x = .nan → n = { B with nan := true }) ∧ (x = .inf false → n = { B with pinf := true }) ∧
    (x = .inf true → n = { B with ninf := true }) ∧
    ∀ neg man exp, x = .fin neg man exp → B.Added n (if neg then -(man : Int) else man) exp)

theorem Basin.sum_add (B : Basin) (x : Fv) : B.Sum (B.add x) x := by
  refine ⟨fun h => Basin.add_of_bad (Bool.eq_false_iff.2 fun e => h (B.okBase_iff.1 e)) x, fun h => ?_⟩
  rw [Basin.add_of_ok (B.okBase_iff.2 h)]
  refine ⟨?_, ?_, ?_, ?_⟩
  · rintro rfl; rfl
  · rintro rfl; rfl
  · rintro rfl; rfl
  · rintro neg man exp rfl; exact B.added_plus _ _

theorem Basin.Fits.plus {b : Basin} (h : b.Fits) (v exp : Int) : (b.plus v exp).Fits :=
  ⟨by dsimp only [Basin.plus]; exact isSigned_signed 383 _, h.base⟩

theorem Basin.Fits.add {b : Basin} (h : b.Fits) (x : Fv) : (b.add x).Fits := by
  cases hok : b.okBase with
  | false => rw [Basin.add_of_bad hok]; exact ⟨h.win, h.base⟩
  | true =>
    rw [Basin.add_of_ok hok]
    match x with
    | .nan | .inf false | .inf true => exact ⟨h.win, h.base⟩
    | .fin neg man exp => exact h.plus _ _

/-! The order of additions (R96). -/

/-- A basin but for OVF, the one flag that depends on the order of additions (R96). -/
def Basin.butOvf (b : Basin) : Basin := { b with ovf := false }

theorem Basin.plus_plus_comm (b : Basin) (v e v' e' : Int) :
    ((b.plus v e).plus v' e').butOvf = ((b.plus v' e').plus v e).butOvf := by
  have hwin : signed 384 (wrap 384 (signed 384 (wrap 384 (b.win + floorQuot b.base v e)) + floorQuot b.base v' e')) =
      signed 384 (wrap 384 (signed 384 (wrap 384 (b.win + floorQuot b.base v' e')) + floorQuot b.base v e)) := by
    rw [signed_wrap_add 383, signed_wrap_add 383, Int.add_right_comm]
  simp only [Basin.butOvf, Basin.plus, hwin, Bool.or_right_comm]

theorem Basin.take_take_comm (b : Basin) (x y : Fv) : ((b.take x).take y).butOvf = ((b.take y).take x).butOvf := by
  match x, y with
  | .fin n m e, .fin n' m' e' => exact b.plus_plus_comm _ _ _ _
  | .nan, .nan | .nan, .inf false | .nan, .inf true | .nan, .fin _ _ _ => rfl
  | .inf false, .nan | .inf false, .inf false | .inf false, .inf true | .inf false, .fin _ _ _ => rfl
  | .inf true, .nan | .inf true, .inf false | .inf true, .inf true | .inf true, .fin _ _ _ => rfl
  | .fin _ _ _, .nan | .fin _ _ _, .inf false | .fin _ _ _, .inf true => rfl

/-- Two additions in either order differ in OVF alone. -/
theorem Basin.add_add_comm (b : Basin) (x y : Fv) : ((b.add x).add y).butOvf = ((b.add y).add x).butOvf := by
  cases hok : b.okBase with
  | false =>
    have hbad (z : Fv) : ({ b with nan := true } : Basin).add z = { b with nan := true } :=
      Basin.add_of_bad (b := { b with nan := true }) hok z
    rw [Basin.add_of_bad hok, Basin.add_of_bad hok, hbad, hbad]
  | true =>
    have htake (z : Fv) : (b.take z).okBase = true := (b.okBase_take z).trans hok
    rw [Basin.add_of_ok hok, Basin.add_of_ok hok, Basin.add_of_ok (htake x), Basin.add_of_ok (htake y), Basin.take_take_comm]

/-- OVF is read by no addition. -/
theorem Basin.add_butOvf (b : Basin) (x : Fv) : (b.butOvf.add x).butOvf = (b.add x).butOvf := by
  cases hok : b.okBase with
  | false => rw [Basin.add_of_bad hok, Basin.add_of_bad (b := b.butOvf) hok]; rfl
  | true =>
    rw [Basin.add_of_ok hok, Basin.add_of_ok (b := b.butOvf) hok]
    match x with
    | .nan | .inf false | .inf true | .fin _ _ _ => rfl

/-- A set of additions leaves all but OVF the same in every order (R96). -/
theorem Basin.foldl_add_perm (b : Basin) {l l' : List Fv} (h : l.Perm l') :
    (l.foldl Basin.add b).butOvf = (l'.foldl Basin.add b).butOvf := by
  have hcomm (b : Basin) (x y : Fv) : ((b.add x).butOvf.add y).butOvf = ((b.add y).butOvf.add x).butOvf := by
    rw [Basin.add_butOvf, Basin.add_butOvf, Basin.add_add_comm]
  have hfold (l : List Fv) : l.foldl (fun b x => (b.add x).butOvf) b.butOvf = (l.foldl Basin.add b).butOvf :=
    List.foldl_hom Basin.butOvf Basin.add_butOvf
  rw [← hfold, ← hfold]
  exact h.foldl_eq' (fun x _ y _ b => hcomm b x y) _

end Sys2Proof.Machine
end

section
/-! The basin instructions (R93-R95, R137-R139) and the obligation. -/

namespace Sys2Proof.Machine

/-! XMERGE (R94). -/

/-- A basin with the flags of another ORed in (R94). -/
def Basin.orFlags (d s : Basin) : Basin :=
  { d with ovf := d.ovf || s.ovf, loss := d.loss || s.loss, nan := d.nan || s.nan, pinf := d.pinf || s.pinf,
           ninf := d.ninf || s.ninf }

theorem Basin.merge_of_ok {d s : Basin} (hd : d.okBase = true) (hs : s.okBase = true) :
    d.merge s = (d.orFlags s).plus s.win s.base := by
  have hwin : (if decide (s.win < 0) then -(s.win.natAbs : Int) else s.win.natAbs) = s.win := by
    simp only [decide_eq_true_eq]; split <;> omega
  unfold Basin.merge
  rw [if_pos (by rw [hd, hs]; rfl), Basin.addFin_eq_plus, hwin]
  rfl
theorem Basin.merge_of_bad {d s : Basin} (h : ¬(d.okBase = true ∧ s.okBase = true)) :
    d.merge s = { d.orFlags s with nan := true } := by
  unfold Basin.merge
  rw [if_neg (by simpa only [Bool.and_eq_true] using h)]
  rfl

theorem Basin.Fits.merge {d : Basin} (h : d.Fits) (s : Basin) : (d.merge s).Fits := by
  have hor : (d.orFlags s).Fits := ⟨h.win, h.base⟩
  by_cases hok : d.okBase = true ∧ s.okBase = true
  · rw [Basin.merge_of_ok hok.1 hok.2]; exact hor.plus _ _
  · rw [Basin.merge_of_bad hok]; exact ⟨hor.win, hor.base⟩

/-! XRND (R95). -/

theorem value_encode_inf (p : Prec) (rm : Rm) (neg : Bool) :
    (precFmt p).value ((precFmt p).encode rm (.inf neg)).1 = .inf neg ∧ ((precFmt p).encode rm (.inf neg)).2 = Cond.none_ := by
  have henc : (precFmt p).encode rm (.inf neg) =
      ((precFmt p).sign neg + (2 ^ (precFmt p).w - 1) * 2 ^ (precFmt p).m, Cond.none_) := by cases p <;> rfl
  rw [henc]
  cases p <;> cases neg <;> exact ⟨by decide, rfl⟩

/-- The first row of R95's table that applies gives XRND's result. -/
theorem Basin.round_rows (B : Basin) (p : Prec) (rm : Rm) :
    let F := precFmt p
    let r := B.round F rm
    if B.nan = true ∨ (B.pinf = true ∧ B.ninf = true) ∨ B.ovf = true then r = (F.nan, Cond.none_)
    else if B.pinf = true then F.value r.1 = .inf false ∧ r.2 = Cond.none_
    else if B.ninf = true then F.value r.1 = .inf true ∧ r.2 = Cond.none_
    else if B.win = 0 then r = (0, Cond.none_) else r = F.encode rm (.fin (decide (B.win < 0)) B.win.natAbs B.base) := by
  dsimp only
  unfold Basin.round
  simp only [Bool.or_eq_true, Bool.and_eq_true, or_assoc]
  split
  · rfl
  · split
    · exact value_encode_inf p rm false
    · split
      · exact value_encode_inf p rm true
      · split <;> rfl

/-! The product of XMADD (R93). -/

/-- The product is exact; of an infinity and zero it is a NaN. -/
theorem Fv.mul_cases (x y : Fv) :
    match x, y with
    | .fin n1 m1 e1, .fin n2 m2 e2 => (x.mul y).1 = .fin (n1 != n2) (m1 * m2) (e1 + e2)
    | .inf n1, .fin n2 m2 _ => (x.mul y).1 = if m2 = 0 then .nan else .inf (n1 != n2)
    | .fin n1 m1 _, .inf n2 => (x.mul y).1 = if m1 = 0 then .nan else .inf (n1 != n2)
    | .inf n1, .inf n2 => (x.mul y).1 = .inf (n1 != n2)
    | .nan, _ => (x.mul y).1 = .nan
    | _, .nan => (x.mul y).1 = .nan := by
  match x, y with
  | .fin _ _ _, .fin _ _ _ | .inf _, .inf _ => rfl
  | .inf _, .fin _ m _ | .fin _ m _, .inf _ => dsimp only [Fv.mul]; split <;> rfl
  | .nan, .nan | .nan, .inf _ | .nan, .fin _ _ _ | .inf _, .nan | .fin _ _ _, .nan => rfl

/-! The instructions on a barrel core at a basin's address (R137, R138). -/

section
variable {s : State} {k : Nat} {a : GReg}

theorem basinOp_of_key (hd : isDeep s.cur.1 = false) {va : Word} (hk : s.basinKey va = some k) (f : Nat → State → State) :
    s.basinOp va f = f k s := by
  unfold State.basinOp
  rw [hd, hk]
  rfl

theorem exec_xadd_of_key (hd : isDeep s.cur.1 = false) (hk : s.basinKey (s.g a) = some k) (q : Bool) (f : XForm) (b : BitVec 5) :
    exec (.xadd q f a b) s = .next (s.setBasin k ((s.xaddends f b).foldl Basin.add (Basin.ofMem s.mem k))).done :=
  congrArg Host.Outcome.next (basinOp_of_key hd hk _)

theorem exec_xmadd_of_key (hd : isDeep s.cur.1 = false) (hk : s.basinKey (s.g a) = some k) (q vec : Bool) (b c : BitVec 5) :
    exec (.xmadd q vec a b c) s = .next (s.setBasin k ((s.xproducts vec b c).foldl Basin.add (Basin.ofMem s.mem k))).done :=
  congrArg Host.Outcome.next (basinOp_of_key hd hk _)

theorem exec_xmerge_of_key (hd : isDeep s.cur.1 = false) (hk : s.basinKey (s.g a) = some k) {b : GReg} {ks : Nat}
    (hks : s.basinKey (s.g b) = some ks) (q : Bool) :
    exec (.xmerge q a b) s = .next (s.writeMem k ((Basin.ofMem s.mem k).merge (Basin.ofMem s.mem ks)).bytes
      (s.mem.poisoned k 64 || s.mem.poisoned ks 64)).done :=
  congrArg Host.Outcome.next ((basinOp_of_key hd hks _).trans (basinOp_of_key hd hk _))

theorem exec_xrnd_of_key (hd : isDeep s.cur.1 = false) (hk : s.basinKey (s.g a) = some k) (q : Bool) (p : Prec) (rm : Rm)
    (d : GReg) :
    exec (.xrnd q p rm d a) s = .next ((s.retF d ((Basin.ofMem s.mem k).round (precFmt p) rm)).cool 24) :=
  congrArg Host.Outcome.next (basinOp_of_key hd hk _)

/-- XADD of one value. -/
theorem xadd_one (hd : isDeep s.cur.1 = false) (hk : s.basinKey (s.g a) = some k) (q : Bool) {f : XForm} {b : BitVec 5} {x : Fv}
    (hx : s.xaddends f b = [x]) :
    let B := Basin.ofMem s.mem k
    ∃ n, B.Sum n x ∧ s.basinBecomes (.xadd q f a b) k n := by
  have hexec := exec_xadd_of_key hd hk q f b
  rw [hx] at hexec
  exact ⟨_, Basin.sum_add _ x, basinBecomes_of_write ((Basin.fits_ofMem _ _).add x) hexec⟩

theorem xmadd_one (hd : isDeep s.cur.1 = false) (hk : s.basinKey (s.g a) = some k) (q : Bool) (b c : BitVec 5) :
    let x := ((precVal .f32 (s.g b)).mul (precVal .f32 (s.g c))).1
    s.basinBecomes (.xmadd q false a b c) k ((Basin.ofMem s.mem k).add x) :=
  basinBecomes_of_write ((Basin.fits_ofMem _ _).add _) (exec_xmadd_of_key hd hk q false b c)

/-- XRND writes its rounded value, records its conditions and holds its context (R121, R139). -/
theorem xrnd_does (hd : isDeep s.cur.1 = false) (hk : s.basinKey (s.g a) = some k) (q : Bool) (p : Prec) (rm : Rm) (d : GReg) :
    let r := (Basin.ofMem s.mem k).round (precFmt p) rm
    Does (.xrnd q p rm d a) s (s.heldFor 24 (s.after 4 fun x => (x.noted r.2).setG d.toNat (BitVec.ofNat 64 r.1))) := by
  intro r
  obtain ⟨honly, hcc⟩ := raise_ret_spec s d r.2 (BitVec.ofNat 64 r.1)
  obtain ⟨honly', hcc'⟩ := cool_spec honly hcc (fun _ => by rw [hcc]; rfl) 24
  exact ⟨_, exec_xrnd_of_key hd hk q p rm d, honly', hcc'⟩

end

/-- Settles O15: each instruction's bytes are those of R93-R95's basin, which memory then holds; two values commute but for OVF,
so a permutation of them leaves the rest the same. -/
theorem basinArithmetic : Obligations.BasinArithmetic := by
  unfold Obligations.BasinArithmetic
  refine ⟨fun s q a b c d p rm k hd hk => ⟨xadd_one hd hk q rfl, xadd_one hd hk q rfl, ?_, fun ks hks => ?_, ?_⟩,
    fun B l l' h => ?_⟩
  · exact ⟨_, _, Basin.sum_add _ _, xmadd_one hd hk q b c, Fv.mul_cases _ _⟩
  · refine ⟨_, basinBecomes_of_write ((Basin.fits_ofMem _ _).merge _) (exec_xmerge_of_key hd hk hks q),
      fun hB hS => ?_, fun hbad => ?_⟩
    · rw [Basin.merge_of_ok ((Basin.okBase_iff _).2 hB) ((Basin.okBase_iff _).2 hS)]
      exact Basin.added_plus _ _ _
    · exact Basin.merge_of_bad fun h => hbad ⟨(Basin.okBase_iff _).1 h.1, (Basin.okBase_iff _).1 h.2⟩
  · exact ⟨_, xrnd_does hd hk q p rm d, Basin.round_rows _ p rm⟩
  · have hperm := B.foldl_add_perm h
    simp only [Basin.butOvf, Basin.mk.injEq] at hperm
    obtain ⟨hwin, hbase, -, hloss, hnan, hpinf, hninf⟩ := hperm
    exact ⟨hwin, hbase, hnan, hpinf, hninf, hloss⟩

end Sys2Proof.Machine
end

section
/-! Division in the cases of R101, and the rules for an instruction that writes g(d) and records conditions (R103) or keeps its
context out of the rotation (R99). -/

namespace Sys2Proof.Machine

/-! Completion: what an instruction does whose meaning is one of the shared ways to write g(d). -/

section
variable {i : Instr} {s : State} {d : GReg}

/-- A long integer instruction writes g(d) and holds back what R99 says. -/
theorem does_of_ret_long {x : Word} {n : Nat} (h : exec i s = .next ((s.ret d x).long d n)) :
    Does i s (s.longFor d n (s.after 4 fun r => r.setG d.toNat x)) := by
  obtain ⟨honly, hcc⟩ := ret_spec s d x
  exact ⟨_, h, long_spec honly hcc (fun _ => by rw [hcc]; rfl) d n⟩

/-- A float result goes to g(d) and its conditions to env. -/
theorem does_of_retF {r : Nat × Cond} (h : exec i s = .next (s.retF d r)) :
    Does i s (s.after 4 fun q => (q.noted r.2).setG d.toNat (BitVec.ofNat 64 r.1)) :=
  ⟨_, h, raise_ret_spec s d r.2 (BitVec.ofNat 64 r.1)⟩

/-- The same for a long float instruction. -/
theorem does_of_retF_long {r : Nat × Cond} {n : Nat} (h : exec i s = .next ((s.retF d r).long d n)) :
    Does i s (s.longFor d n (s.after 4 fun q => (q.noted r.2).setG d.toNat (BitVec.ofNat 64 r.1))) := by
  obtain ⟨honly, hcc⟩ := raise_ret_spec s d r.2 (BitVec.ofNat 64 r.1)
  exact ⟨_, h, long_spec honly hcc (fun _ => by rw [hcc]; rfl) d n⟩

end

/-! The results of R101. -/

theorem divS_zero (x : Word) : divS x 0#64 = BitVec.allOnes 64 := rfl
theorem divU_zero (x : Word) : divU x 0#64 = BitVec.allOnes 64 := rfl
theorem remS_zero (x : Word) : remS x 0#64 = x := rfl
theorem remU_zero (x : Word) : remU x 0#64 = x := rfl

/-- Signed overflow: 2^63 is no signed word, and the quotient wraps to the dividend. -/
theorem divS_remS_overflow {x y : Word} (hx : x.toInt = -2 ^ 63) (hy : y.toInt = -1) : divS x y = x ∧ remS x y = 0#64 := by
  obtain rfl : x = BitVec.intMin 64 := BitVec.eq_of_toInt_eq hx
  obtain rfl : y = BitVec.allOnes 64 := BitVec.eq_of_toInt_eq hy
  decide

/-- Settles O2: each instruction completes with its quotient or remainder, whose value in these cases is the table's. -/
theorem divisionCorners : Obligations.DivisionCorners := by
  unfold Obligations.DivisionCorners
  intro s d a b held
  have hdiv : Does (.div d a b) s (held (divS (s.g a) (s.g b))) := does_of_ret_long rfl
  have hdivu : Does (.divu d a b) s (held (divU (s.g a) (s.g b))) := does_of_ret_long rfl
  have hrem : Does (.rem d a b) s (held (remS (s.g a) (s.g b))) := does_of_ret_long rfl
  have hremu : Does (.remu d a b) s (held (remU (s.g a) (s.g b))) := does_of_ret_long rfl
  constructor
  · intro hzero
    rw [hzero, divS_zero] at hdiv
    rw [hzero, divU_zero] at hdivu
    rw [hzero, remS_zero] at hrem
    rw [hzero, remU_zero] at hremu
    exact ⟨hdiv, hdivu, hrem, hremu⟩
  · intro hmin hneg
    obtain ⟨hquot, hrest⟩ := divS_remS_overflow hmin hneg
    rw [hquot] at hdiv
    rw [hrest] at hrem
    exact ⟨hdiv, hrem⟩

end Sys2Proof.Machine
end

section
/-! Scalar floating point (R103-R107). -/

namespace Sys2Proof.Machine

/-! One rounding of an exact result (R86, R104). -/

/-- An exact result rounded once to a format: the code, and the conditions of the operation with those of the rounding. -/
def Fmt.rounded (f : Fmt) (rm : Rm) (v : Fv × Cond) : Nat × Cond := ((f.encode rm v.1).1, v.2.or (f.encode rm v.1).2)

theorem Fmt.op1_eq_rounded (f : Fmt) (rm : Rm) (g : Fv → Fv × Cond) (x : Nat) : f.op1 rm g x = f.rounded rm (g (f.value x)) := rfl
theorem Fmt.op2_eq_rounded (f : Fmt) (rm : Rm) (g : Fv → Fv → Fv × Cond) (x y : Nat) :
    f.op2 rm g x y = f.rounded rm (g (f.value x) (f.value y)) := rfl

/-- A value given without a condition: those of the rounding alone. -/
theorem Fmt.encode_eq_rounded (f : Fmt) (rm : Rm) (x : Fv) : f.encode rm x = f.rounded rm (x, Cond.none_) := by
  simp [Fmt.rounded, Cond.or, Cond.none_]

/-- What the current context holds after g(d) has got an exact result rounded once (R103, R174). -/
def State.afterRounded (s : State) (d : GReg) (f : Fmt) (rm : Rm) (v : Fv × Cond) : Ctx :=
  s.after 4 fun r => (r.noted (f.rounded rm v).2).setG d.toNat (BitVec.ofNat 64 (f.rounded rm v).1)

section
variable {i : Instr} {s : State} {d : GReg}

theorem does_of_fop2 {p : Prec} {rm : Rm} (f : Fv → Fv → Fv × Cond) {a b : GReg} (h : exec i s = .next (s.fop2 p rm f d a b)) :
    Does i s (s.afterRounded d (precFmt p) rm (f (precVal p (s.g a)) (precVal p (s.g b)))) := by
  rw [State.fop2, Fmt.op2_eq_rounded] at h
  exact does_of_retF h

theorem does_fdiv (s : State) (p : Prec) (rm : Rm) (d a b : GReg) :
    Does (.fdiv p rm d a b) s (s.longFor d (fpCool p)
      (s.afterRounded d (precFmt p) rm ((precVal p (s.g a)).div (precVal p (s.g b))))) := by
  have h : exec (.fdiv p rm d a b) s = .next ((s.fop2 p rm Fv.div d a b).long d (fpCool p)) := rfl
  rw [State.fop2, Fmt.op2_eq_rounded] at h
  exact does_of_retF_long h

theorem does_fsqrt (s : State) (p : Prec) (rm : Rm) (d a : GReg) :
    Does (.fsqrt p rm d a) s (s.longFor d (fpCool p) (s.afterRounded d (precFmt p) rm (precVal p (s.g a)).sqrt)) := by
  have h : exec (.fsqrt p rm d a) s =
      .next ((s.retF d ((precFmt p).op1 rm Fv.sqrt (precNat p (s.g a)))).long d (fpCool p)) := rfl
  rw [Fmt.op1_eq_rounded] at h
  exact does_of_retF_long h

/-- A conversion to a float rounds its value once. -/
theorem does_of_encode {f : Fmt} {rm : Rm} {x : Fv} (h : exec i s = .next (s.retF d (f.encode rm x))) :
    Does i s (s.afterRounded d f rm (x, Cond.none_)) := by
  rw [Fmt.encode_eq_rounded] at h
  exact does_of_retF h

end

/-! Results that are not floats (R104, R105). -/

theorem ofNat_wrap (x : Int) : BitVec.ofNat 64 (wrap 64 x) = BitVec.ofInt 64 x := by
  apply BitVec.eq_of_toNat_eq
  rw [BitVec.toNat_ofNat, Nat.mod_eq_of_lt (wrap_lt 64 x), BitVec.toNat_ofInt]
  rfl

theorem ofNat_toNat_eq_boolWord (b : Bool) : BitVec.ofNat 64 b.toNat = boolWord b := by cases b <;> rfl

/-- FCVT to an integer writes the integer's low 64 bits. -/
theorem does_of_toInt {i : Instr} {s : State} {d : GReg} {r : Int × Cond} (h : exec i s = .next (s.retF d (wrap 64 r.1, r.2))) :
    Does i s (s.after 4 fun q => (q.noted r.2).setG d.toNat (BitVec.ofInt 64 r.1)) := by
  have := does_of_retF h
  rwa [ofNat_wrap] at this

/-- An ordered compare writes 1 or 0. -/
theorem does_of_compare {i : Instr} {s : State} {d : GReg} {b : Bool} {c : Cond} (h : exec i s = .next (s.retF d (b.toNat, c))) :
    Does i s (s.after 4 fun q => (q.noted c).setG d.toNat (boolWord b)) := by
  have := does_of_retF h
  rwa [ofNat_toNat_eq_boolWord] at this

/-! FCLASS (R106). -/

section
variable {f : Fmt} {c : Nat}

theorem Fmt.classBit_of_nan (h : f.value c = .nan) : f.classBit c = if c.testBit (f.m - 1) then 9 else 8 := by
  rw [Fmt.classBit, h]
theorem Fmt.classBit_of_inf {neg : Bool} (h : f.value c = .inf neg) : f.classBit c = if neg then 0 else 7 := by
  rw [Fmt.classBit, h]
theorem Fmt.classBit_of_fin {neg : Bool} {man : Nat} {exp : Int} (h : f.value c = .fin neg man exp) :
    f.classBit c = if man = 0 then (if neg then 3 else 4)
      else if man < 2 ^ f.m then (if neg then 2 else 5) else if neg then 1 else 6 := by
  rw [Fmt.classBit, h]

end

theorem Fmt.classBit_lt (f : Fmt) (c : Nat) : f.classBit c < 10 := by
  match h : f.value c with
  | .nan => rw [Fmt.classBit_of_nan h]; split <;> decide
  | .inf neg => rw [Fmt.classBit_of_inf h]; split <;> decide
  | .fin neg man exp =>
    rw [Fmt.classBit_of_fin h]
    split
    · cases neg <;> decide
    · split
      · cases neg <;> decide
      · cases neg <;> decide

/-- The top bit of the mantissa in a register, which tells a quiet NaN from a signalling one (R106). -/
def quietPos : Prec → Nat
  | .f32 => 22
  | .f64 => 51

theorem testBit_precNat_quietPos (p : Prec) (x : Word) :
    (precNat p x).testBit ((precFmt p).m - 1) = x.getLsbD (quietPos p) := by
  cases p with
  | f32 => exact (Nat.testBit_mod_two_pow x.toNat 32 22).trans (by simp [BitVec.getLsbD, quietPos])
  | f64 => rfl

theorem classBit_precNat_of_nan {p : Prec} {x : Word} (h : precVal p x = .nan) :
    (precFmt p).classBit (precNat p x) = if x.getLsbD (quietPos p) then 9 else 8 := by
  rw [Fmt.classBit_of_nan h, testBit_precNat_quietPos]

/-- Settles O6: each instruction's meaning is one of the ways to write g(d) above; FCLASS by the kind of its operand's value. -/
theorem scalarFloatResults : Obligations.ScalarFloatResults := by
  unfold Obligations.ScalarFloatResults
  intro s p rm d a b
  dsimp only
  have hadd := does_of_fop2 (i := .fadd p rm d a b) (s := s) (Fv.add rm) rfl
  have hsub := does_of_fop2 (i := .fsub p rm d a b) (s := s) (fun x y => x.add rm y.neg) rfl
  have hmul := does_of_fop2 (i := .fmul p rm d a b) (s := s) Fv.mul rfl
  refine ⟨hadd, hsub, hmul, does_fdiv s p rm d a b, does_fsqrt s p rm d a, does_of_retF rfl,
    writesG_of_ret rfl, writesG_of_ret rfl, does_of_encode rfl, does_of_encode rfl, does_of_toInt rfl, does_of_toInt rfl,
    writesG_of_ret rfl, ⟨does_of_compare rfl, does_of_compare rfl⟩,
    (precFmt p).classBit (precNat p (s.g a)), Fmt.classBit_lt _ _, writesG_of_ret rfl, ?_⟩
  match hx : precVal p (s.g a) with
  | .nan => exact classBit_precNat_of_nan hx
  | .inf neg => exact Fmt.classBit_of_inf hx
  | .fin neg man exp =>
    have hbit := Fmt.classBit_of_fin hx
    by_cases hzero : man = 0
    · rw [if_pos hzero] at hbit
      exact (if_pos hzero).mpr hbit
    · rw [if_neg hzero] at hbit
      refine (if_neg hzero).mpr ?_
      by_cases htiny : man < 2 ^ (precFmt p).m
      · rw [if_pos htiny] at hbit
        exact (if_pos htiny).mpr hbit
      · rw [if_neg htiny] at hbit
        exact (if_neg htiny).mpr hbit

end Sys2Proof.Machine
end
